-- ==== Sys2Proof/Word.lean ====
section
/-!
DEFINITION. The word types of the Frame Codec: a byte and a 16-bit value (00_scope.md rules R10, R12).
Every value is unsigned, and every 16-bit result is taken modulo 2^16, which is what `BitVec 16` does.
-/

namespace Sys2Proof

/-- A byte: 8 bits, bit 7 the most significant (R10). -/
abbrev Byte := BitVec 8

/-- A 16-bit unsigned value: a length, a CRC register (R10, R12). -/
abbrev Word16 := BitVec 16

/-- The 4-bit code of a decoder state (R21). -/
abbrev StateCode := BitVec 4

/-- The 12-bit receive dispatch word `x[state] ‖ b` (R67). -/
abbrev DispatchWord := BitVec 12

end Sys2Proof
end

