-- ==== Sys2Proof/Config.lean ====
section
/-!
DEFINITION. The named configuration parameters of 00_scope.md rule R7 and the numbering of the nine decoder states of
10_state.md rule R21. Every literal of the source stands here once and is used by name (92_eei_decisions.md D20).
-/

namespace Sys2Proof

namespace Config

/-- First byte of every frame; not covered by the CRC (R7). UNVERIFIED: the source's literals are unaudited (log entry 12). -/
def PREAMBLE : Byte := 0xBB#8

/-- The byte after the payload; covered by the CRC (R7). UNVERIFIED (log entry 12). -/
def ENDMARK : Byte := 0x7E#8

/-- CRC register width in bits (R2, R7, D28): the width of `Word16`. -/
abbrev CRC_N : Nat := 16

/-- Generator polynomial, the x^16 term implicit (R7). UNVERIFIED (log entry 12). -/
def CRC_POLY : Word16 := 0x1021#16

/-- CRC register before the first byte (R7). UNVERIFIED (log entry 12). -/
def CRC_INIT : Word16 := 0xFFFF#16

/-- "no final XOR" (R7). UNVERIFIED (log entry 12). -/
def CRC_XOROUT : Word16 := 0x0000#16

/-- Input bytes are not reflected, and the register is not reflected on output (R7). UNVERIFIED (log entry 12). -/
def CRC_MSB_FIRST : Bool := true

/-- Width of the length field in bytes, big-endian (R7). -/
abbrev LEN_BYTES : Nat := 2

/-- Largest payload length in bytes (R7). -/
def MAX_PAYLOAD : Nat := 65535

/-- `kind` of a command (R7, R63). The block never tests it. -/
def KIND_COMMAND : Byte := 0#8

/-- `kind` of a response (R7, R63). The block never tests it. -/
def KIND_RESPONSE : Byte := 1#8

/-- `kind` of a notification (R7, R63). The block never tests it. -/
def KIND_NOTIFICATION : Byte := 2#8

/-- `kind` value named Reserved (R7, R63). The block never tests it. -/
def KIND_RESERVED : Byte := 3#8

/-- `code` reserved for command-failure responses (R7, R64). The block never tests it. -/
def CODE_FAILURE : Byte := 0xFF#8

/-- Bytes of a frame before the payload: preamble, kind, code and the two length bytes (R8). -/
def headerBytes : Nat := 3 + LEN_BYTES

/-- Bytes of a frame after the payload: the end mark and the CRC (R8). -/
def trailerBytes : Nat := 1 + CRC_N / 8

/-- Most bytes `frameBytes` ever holds: `4 + MAX_PAYLOAD + 1` (R8, R41). -/
def maxFrameBytes : Nat := (headerBytes - 1) + MAX_PAYLOAD + 1

end Config

/-- The nine decoder states, in the source's order (R21). -/
inductive DState where
  | awaitPreamble
  | awaitType
  | awaitCode
  | awaitLenHi
  | awaitLenLo
  | awaitPayload
  | awaitEndMark
  | awaitCrcHi
  | awaitCrcLo
  deriving DecidableEq, Repr

/-- The 4-bit code of a decoder state (R21, D2). -/
def DState.code : DState → StateCode
  | .awaitPreamble => 0#4
  | .awaitType => 1#4
  | .awaitCode => 2#4
  | .awaitLenHi => 3#4
  | .awaitLenLo => 4#4
  | .awaitPayload => 5#4
  | .awaitEndMark => 6#4
  | .awaitCrcHi => 7#4
  | .awaitCrcLo => 8#4

/-- The largest assigned state code (R21, R100). Codes 9 to 15 are unused. -/
def DState.lastCode : StateCode := 8#4

end Sys2Proof
end

