-- ==== Sys2Proof/Syntax.lean ====
section
/-!
DEFINITION. The instructions: one constructor per row of spec/opcode_table.json, in the table's order. The first fourteen are
the transitions an `RX_BYTE` selects (30_encoding.md rule R70), the last four the host operations (rule R69). Operands are the
ones the row's rule lists; `PRE_MATCH` and `END_OK` match one fixed byte and have none.
-/

namespace Sys2Proof

/-- An instruction of the Frame Codec. -/
inductive Instr where
  /-- `PRE_MATCH`, R101. -/
  | preMatch
  /-- `PRE_SKIP`, R102: the discarded byte. -/
  | preSkip (b : Byte)
  /-- `TYPE`, R103: the kind byte. -/
  | type (b : Byte)
  /-- `CODE`, R104: the operation code byte. -/
  | code (b : Byte)
  /-- `LENHI`, R105: the high length byte. -/
  | lenhi (b : Byte)
  /-- `LENLO_ZERO`, R106: the low length byte, when the length is 0. -/
  | lenloZero (b : Byte)
  /-- `LENLO_NZ`, R107: the low length byte, when the length is at least 1. -/
  | lenloNz (b : Byte)
  /-- `PAY_MORE`, R108: a payload byte that is not the last. -/
  | payMore (b : Byte)
  /-- `PAY_LAST`, R109: the last payload byte. -/
  | payLast (b : Byte)
  /-- `END_OK`, R110. -/
  | endOk
  /-- `END_BAD`, R111: the byte that stands where the end mark was due. -/
  | endBad (b : Byte)
  /-- `CRCHI`, R112: the high CRC byte. -/
  | crchi (b : Byte)
  /-- `CRCLO_OK`, R113: the low CRC byte, when the CRC checks. -/
  | crcloOk (b : Byte)
  /-- `CRCLO_BAD`, R114: the low CRC byte, when the CRC fails. -/
  | crcloBad (b : Byte)
  /-- `RX_BYTE`, R100: one received byte. -/
  | rxByte (b : Byte)
  /-- `RESET` (connect), R150. -/
  | reset
  /-- `TX_FRAME`, R80: `L` of R69 is the payload's length. -/
  | txFrame (kind code : Byte) (payload : List Byte)
  /-- `DISCONNECT`, R151. -/
  | disconnect
  deriving DecidableEq, Repr

end Sys2Proof
end

