-- ==== Sys2Proof/WellFormed.lean ====
section
/-!
DEFINITION. Which instructions an encoding can carry: the byte of each dispatch row satisfies the row's own condition on the
byte (30_encoding.md rules R68, R70), and the length of a `TX_FRAME` payload fits the 16-bit operand `L` (rule R69).
-/

namespace Sys2Proof

/-- The instruction is one the encodings of rules R69 and R70 can carry. -/
def Instr.wf : Instr → Bool
  | .preMatch => true
  | .preSkip b => b != Config.PREAMBLE
  | .type _ => true
  | .code _ => true
  | .lenhi _ => true
  | .lenloZero b => b == 0#8
  | .lenloNz _ => true
  | .payMore _ => true
  | .payLast _ => true
  | .endOk => true
  | .endBad b => b != Config.ENDMARK
  | .crchi _ => true
  | .crcloOk _ => true
  | .crcloBad _ => true
  | .rxByte _ => true
  | .reset => true
  | .txFrame _ _ payload => decide (payload.length ≤ Config.MAX_PAYLOAD)
  | .disconnect => true

end Sys2Proof
end

