-- ==== Sys2Proof/Decode.lean ====
section
/-!
DEFINITION. Decoding and encoding, both written from 30_encoding.md: the receive dispatch table (rules R67, R68, R70) and the
host-operation field (rule R69). The machine selects its transitions with `selectRow`, so the table below is what it runs on.
-/

namespace Sys2Proof

/-- One operation as the host presents it: the 2-bit `op` field and every operand of rule R69. An operand that `op` does not
use is ignored. `L` is the length of `payload` (DESIGN CHOICE, log entry 9). -/
structure HostWord where
  op : BitVec 2
  b : Byte
  kind : Byte
  code : Byte
  payload : List Byte
  deriving DecidableEq, Repr

/-- The fourteen rows of rule R70. -/
inductive Row where
  | preMatch | preSkip | type | code | lenhi | lenloZero | lenloNz | payMore | payLast | endOk | endBad | crchi
  | crcloOk | crcloBad
  deriving DecidableEq, Repr

/-- What a row asks of its state's predicate (R68): nothing, that it holds, or that it fails. States `AwaitLenLo`,
`AwaitPayload` and `AwaitCrcLo` have one predicate each, so one truth value serves. -/
inductive Cond where
  | always | holds | fails
  deriving DecidableEq, Repr

/-- The condition is met when the state's predicate has the value `p`. -/
def Cond.met (p : Bool) : Cond → Bool
  | .always => true
  | .holds => p
  | .fails => !p

/-- A row of the opcode map: `match`, `mask`, predicate and priority, as spec/opcode_table.json lists them. -/
structure RowEntry where
  row : Row
  matchBits : DispatchWord
  mask : DispatchWord
  cond : Cond
  priority : Nat
  deriving DecidableEq, Repr

/-- The dispatch word `x[state] ‖ b` (R67). -/
def dispatchWord (state : StateCode) (b : Byte) : DispatchWord := state ++ b

/-- `w[11:8]`, the state code of a dispatch word (R67). -/
def DispatchWord.stateField (w : DispatchWord) : StateCode := w.extractLsb' 8 4

/-- `w[7:0]`, the received byte of a dispatch word (R67). -/
def DispatchWord.byteField (w : DispatchWord) : Byte := w.extractLsb' 0 8

/-- The mask of a row that fixes the state and the byte. -/
def maskFull : DispatchWord := 0xFFF#12

/-- The mask of a row that fixes the state only. -/
def maskState : DispatchWord := 0xF00#12

/-- A row that takes any byte in state `d`. -/
def anyByte (row : Row) (d : DState) (cond : Cond) (priority : Nat) : RowEntry :=
  ⟨row, dispatchWord d.code 0#8, maskState, cond, priority⟩

/-- A row that takes the one byte `b` in state `d`. -/
def oneByte (row : Row) (d : DState) (b : Byte) : RowEntry :=
  ⟨row, dispatchWord d.code b, maskFull, .always, 0⟩

/-- The receive transition map of rule R70, row by row. -/
def rxTable : List RowEntry :=
  [ oneByte .preMatch .awaitPreamble Config.PREAMBLE,
    anyByte .preSkip .awaitPreamble .always 1,
    anyByte .type .awaitType .always 0,
    anyByte .code .awaitCode .always 0,
    anyByte .lenhi .awaitLenHi .always 0,
    anyByte .lenloZero .awaitLenLo .holds 0,
    anyByte .lenloNz .awaitLenLo .fails 0,
    anyByte .payMore .awaitPayload .fails 0,
    anyByte .payLast .awaitPayload .holds 0,
    oneByte .endOk .awaitEndMark Config.ENDMARK,
    anyByte .endBad .awaitEndMark .always 1,
    anyByte .crchi .awaitCrcHi .always 0,
    anyByte .crcloOk .awaitCrcLo .holds 0,
    anyByte .crcloBad .awaitCrcLo .fails 0 ]

/-- A row applies when `(w and mask) = match` and its predicate holds (R67). -/
def RowEntry.applies (e : RowEntry) (w : DispatchWord) (p : Bool) : Bool :=
  (w &&& e.mask) == e.matchBits && e.cond.met p

/-- The rows that apply to a dispatch word. -/
def hits (w : DispatchWord) (p : Bool) : List RowEntry := rxTable.filter fun e => e.applies w p

/-- The one row that runs: among the rows that apply, the one of lowest priority number (R70). `none` for the state codes 9 to
15, which no row matches (R71). -/
def selectRow (w : DispatchWord) (p : Bool) : Option Row :=
  ((hits w p).find? fun e => (hits w p).all fun f => decide (e.priority ≤ f.priority)).map RowEntry.row

/-- The instruction a row is, on the received byte. -/
def Row.toInstr (b : Byte) : Row → Instr
  | .preMatch => .preMatch
  | .preSkip => .preSkip b
  | .type => .type b
  | .code => .code b
  | .lenhi => .lenhi b
  | .lenloZero => .lenloZero b
  | .lenloNz => .lenloNz b
  | .payMore => .payMore b
  | .payLast => .payLast b
  | .endOk => .endOk
  | .endBad => .endBad b
  | .crchi => .crchi b
  | .crcloOk => .crcloOk b
  | .crcloBad => .crcloBad b

/-- The operation the host's `op` field names (R69). All four codes are assigned (R71), so nothing is rejected. -/
def decodeHost (h : HostWord) : Instr :=
  if h.op = 0b00#2 then .rxByte h.b
  else if h.op = 0b01#2 then .reset
  else if h.op = 0b10#2 then .txFrame h.kind h.code h.payload
  else .disconnect

/-- An encoded instruction: a dispatch word with the value of its state's predicate, which the word does not hold (R67), or a
host operation (R69). -/
inductive Encoded where
  | dispatch (w : DispatchWord) (p : Bool)
  | host (h : HostWord)
  deriving DecidableEq, Repr

/-- Why a word is not decoded. -/
inductive DecodeError where
  /-- The state field is a code from 9 to 15 (R71 (a)). -/
  | illegalState
  /-- `LenZero(b)` is claimed to hold for a byte other than 0 (R68): no state gives it that value. -/
  | impossiblePredicate
  deriving DecidableEq, Repr

/-- Decoding: total on every dispatch word and every host operation, and each rejection has a name. -/
def decode : Encoded → Except DecodeError Instr
  | .host h => .ok (decodeHost h)
  | .dispatch w p =>
    match selectRow w p with
    | none => .error .illegalState
    | some row =>
      if (row.toInstr (DispatchWord.byteField w)).wf then .ok (row.toInstr (DispatchWord.byteField w))
      else .error .impossiblePredicate

/-- `RX_BYTE(b)` as the host presents it (R69). -/
def HostWord.rx (b : Byte) : HostWord := ⟨0b00#2, b, 0#8, 0#8, []⟩

/-- `RESET` as the host presents it (R69). -/
def HostWord.connect : HostWord := ⟨0b01#2, 0#8, 0#8, 0#8, []⟩

/-- `TX_FRAME(kind, code, payload)` as the host presents it (R69). -/
def HostWord.tx (kind code : Byte) (payload : List Byte) : HostWord := ⟨0b10#2, 0#8, kind, code, payload⟩

/-- `DISCONNECT` as the host presents it (R69). -/
def HostWord.disconnect : HostWord := ⟨0b11#2, 0#8, 0#8, 0#8, []⟩

/-- Encoding, from the same two tables (R69, R70). Where a row has no predicate the truth value is not looked at. -/
def encode : Instr → Encoded
  | .preMatch => .dispatch (dispatchWord DState.awaitPreamble.code Config.PREAMBLE) false
  | .preSkip b => .dispatch (dispatchWord DState.awaitPreamble.code b) false
  | .type b => .dispatch (dispatchWord DState.awaitType.code b) false
  | .code b => .dispatch (dispatchWord DState.awaitCode.code b) false
  | .lenhi b => .dispatch (dispatchWord DState.awaitLenHi.code b) false
  | .lenloZero b => .dispatch (dispatchWord DState.awaitLenLo.code b) true
  | .lenloNz b => .dispatch (dispatchWord DState.awaitLenLo.code b) false
  | .payMore b => .dispatch (dispatchWord DState.awaitPayload.code b) false
  | .payLast b => .dispatch (dispatchWord DState.awaitPayload.code b) true
  | .endOk => .dispatch (dispatchWord DState.awaitEndMark.code Config.ENDMARK) false
  | .endBad b => .dispatch (dispatchWord DState.awaitEndMark.code b) false
  | .crchi b => .dispatch (dispatchWord DState.awaitCrcHi.code b) false
  | .crcloOk b => .dispatch (dispatchWord DState.awaitCrcLo.code b) true
  | .crcloBad b => .dispatch (dispatchWord DState.awaitCrcLo.code b) false
  | .rxByte b => .host (.rx b)
  | .reset => .host .connect
  | .txFrame k c p => .host (.tx k c p)
  | .disconnect => .host .disconnect

/-- A host operation from the bits of an opcode-table word: `op` in bits 1 and 0, every operand 0. -/
def HostWord.ofBits (w : Nat) : HostWord := ⟨BitVec.ofNat 2 w, 0#8, 0#8, 0#8, []⟩

/-- The table gives a predicated row no predicate bit, so a bare dispatch word is read under this value of its state's predicate:
`LenZero` holds exactly for byte 0, `PayLast` holds, `CrcOk` fails (DESIGN CHOICE, log entry 10). -/
def barePredicate (w : DispatchWord) : Bool :=
  if DispatchWord.stateField w = DState.awaitLenLo.code then DispatchWord.byteField w == 0#8
  else DispatchWord.stateField w == DState.awaitPayload.code

/-- The instruction the decoder reads from an opcode-table word: a host operation when the row has 8 bits or fewer, a dispatch
word when it has more (bits above the twelfth are padding to whole bytes; log entry 10). -/
def decodeTableWord (nbits w : Nat) : Option Instr :=
  if nbits ≤ 8 then (decode (.host (.ofBits w))).toOption
  else (decode (.dispatch (BitVec.ofNat 12 w) (barePredicate (BitVec.ofNat 12 w)))).toOption

end Sys2Proof
end

