-- ==== Sys2Proof/Machine/State.lean ====
section
/-!
DEFINITION. The state of the Frame Codec: every element of 10_state.md rule R20 under its own name, and the two fields the model
adds so that one deterministic step can read the host's operations and leave their results.

"No value" is written by the spec itself (R34, R150, R151): an element that holds no value is `none`, and R34 says that a model
that reads one "must fault and must not pick a value" (log entry 6).
-/

namespace Sys2Proof.Machine

/-- The elements of rule R20, to name the one a fault read. -/
inductive Element where
  | connected | state | kind | code | lenHi | lenLo | len | crcHi | crcLo | frameBytes | payloadBytes
  deriving DecidableEq, Repr

/-- Why the machine stops with a fault. -/
inductive Fault where
  /-- `IllegalState` (R132, R71): raised by `RX_BYTE` when `x[state]` holds a code from 9 to 15. Safe: no rule writes one. -/
  | illegalState
  /-- An element that holds no value was read: raised by `RX_BYTE` and the transition rows, because R34 orders the stop ("A model
  that does read one must fault and must not pick a value"; D5, and I5 of 93_implementation_defined.md). Safe: no run from
  power-on or reset reads one. -/
  | noValue (e : Element)
  deriving DecidableEq, Repr

/-- Why an operation is given no meaning (R131). -/
inductive Refusal where
  /-- Raised by `RX_BYTE` and `TX_FRAME` when `x[connected]` is false (R131, D22). Safe. -/
  | notConnected
  /-- Raised by `TX_FRAME` on a payload longer than `MAX_PAYLOAD` (R131, D9). Safe. -/
  | payloadTooLong
  /-- Raised by any operation that was started while another one of the same block was in progress (R131, R154; log entry 4).
  Safe. -/
  | interleaved
  /-- Raised by an arm of `exec` whose instruction has no meaning yet; no arm of this model is one. Safe. -/
  | notModelled (mnemonic : String)
  deriving DecidableEq, Repr

/-- What a step returns (R15, R31). -/
inductive OpResult where
  /-- No result: `RESET`, `DISCONNECT`, or no operation. -/
  | none
  /-- `NeedMore`. -/
  | needMore
  /-- `FrameReady(kind, code, payload)`. -/
  | frameReady (kind code : Byte) (payload : List Byte)
  /-- The wire bytes of a `TX_FRAME`. -/
  | bytes (wire : List Byte)
  deriving DecidableEq, Repr

/-- One operation the host has issued. `overlaps` says that the host started it while another operation of this block was still
in progress, which breaks its contract (R154; log entry 4). -/
structure Issue where
  word : HostWord
  overlaps : Bool
  deriving DecidableEq, Repr

/-- The machine's state. -/
structure State where
  /-- Between `RESET` and `DISCONNECT` (R20). -/
  connected : Bool
  /-- The decoder state register, also named `pc` (R21). -/
  state : Option StateCode
  /-- R22. -/
  kind : Option Byte
  /-- R23. -/
  code : Option Byte
  /-- R24. -/
  lenHi : Option Byte
  /-- R24; nothing reads it. -/
  lenLo : Option Byte
  /-- R24. -/
  len : Option Word16
  /-- R25. -/
  crcHi : Option Byte
  /-- R25; nothing reads it. -/
  crcLo : Option Byte
  /-- The CRC input, kind to end mark (R26). -/
  frameBytes : Option (List Byte)
  /-- The payload only (R27). -/
  payloadBytes : Option (List Byte)
  /-- The model's own: the operations issued and not yet taken, the next one first (R48; log entry 2). -/
  pending : List Issue
  /-- The model's own: what the last step returned (R15, R31; log entry 1). -/
  result : OpResult
  deriving DecidableEq, Repr

/-- The outcome of an operation on the block. -/
abbrev Outcome := Host.Outcome State Fault Refusal

/-- The machine right after the operation `RESET` on a block with nothing issued: the column "after `RESET`" of rule R34. -/
def State.reset : State where
  connected := true
  state := some DState.awaitPreamble.code
  kind := none
  code := none
  lenHi := none
  lenLo := none
  len := none
  crcHi := none
  crcLo := none
  frameBytes := some []
  payloadBytes := some []
  pending := []
  result := .none

/-- The machine at power-on, before any `RESET`: the second column of rule R34. -/
def State.powerOn : State where
  connected := false
  state := none
  kind := none
  code := none
  lenHi := none
  lenLo := none
  len := none
  crcHi := none
  crcLo := none
  frameBytes := none
  payloadBytes := none
  pending := []
  result := .none

end Sys2Proof.Machine
end

