-- ==== Sys2Proof/Machine/Ops.lean ====
section
/-!
DEFINITION. The named operations on the state that the meanings are written in: reading an element, writing one, the buffer
primitives of 00_scope.md rule R14, moving the decoder state register, returning a result, and taking the host's next operation.

There is no operation that takes an exception and none that returns from one: 60_exceptions.md rules R130, R135 and R136 say that
the block has neither. Its only recovery is `goto .awaitPreamble` inside rules R111, R113 and R114.
-/

namespace Sys2Proof.Machine

/-- Reads an element: its value, or the fault that names it where it holds none (R34). -/
def need {α : Type} (e : Element) : Option α → Except Fault α
  | some v => .ok v
  | none => .error (.noValue e)

/-- Goes on with a value that was read, or stops with the fault. -/
def withVal {α : Type} (x : Except Fault α) (k : α → Outcome) : Outcome :=
  match x with
  | .ok v => k v
  | .error f => .fault f

/-- Runs the rest of a rule on the state a first part left. -/
def seq (o : Outcome) (k : State → Outcome) : Outcome :=
  match o with
  | .next s => k s
  | .fault f => .fault f
  | .refused r => .refused r

namespace State

/-- `pc`, the second name of `x[state]` (R13, R21). -/
abbrev pc (s : State) : Option StateCode := s.state

/-- `pc <- d` (R13, R21). -/
def goto (d : DState) (s : State) : State := { s with state := some d.code }

/-- Ends a step with a result (R15). -/
def ret (r : OpResult) (s : State) : State := { s with result := r }

/-- `x[kind] <- b`. -/
def setKind (b : Byte) (s : State) : State := { s with kind := some b }

/-- `x[code] <- b`. -/
def setCode (b : Byte) (s : State) : State := { s with code := some b }

/-- `x[len_hi] <- b`. -/
def setLenHi (b : Byte) (s : State) : State := { s with lenHi := some b }

/-- `x[len_lo] <- b`. -/
def setLenLo (b : Byte) (s : State) : State := { s with lenLo := some b }

/-- `x[len] <- w`. -/
def setLen (w : Word16) (s : State) : State := { s with len := some w }

/-- `x[crc_hi] <- b`. -/
def setCrcHi (b : Byte) (s : State) : State := { s with crcHi := some b }

/-- `x[crc_lo] <- b`. -/
def setCrcLo (b : Byte) (s : State) : State := { s with crcLo := some b }

/-- Writes the whole CRC input buffer. -/
def setFrame (bs : List Byte) (s : State) : State := { s with frameBytes := some bs }

/-- Writes the whole payload buffer. -/
def setPayload (bs : List Byte) (s : State) : State := { s with payloadBytes := some bs }

/-- Writes the list of issued operations. -/
def setPending (is : List Issue) (s : State) : State := { s with pending := is }

/-- Writes `x[connected]`. -/
def setConnected (c : Bool) (s : State) : State := { s with connected := c }

/-- Every field register `<- no value` (R150, R151). -/
def forgetFields (s : State) : State :=
  { s with kind := none, code := none, lenHi := none, lenLo := none, len := none, crcHi := none, crcLo := none }

/-- `x[state]` and both buffers `<- no value` (R151). -/
def forgetFrame (s : State) : State := { s with state := none, frameBytes := none, payloadBytes := none }

/-- `Start(frameBytes, b)` (R14). -/
def startFrame (b : Byte) (s : State) : State := s.setFrame [b]

/-- `Clear(frameBytes)` (R14). -/
def clearFrame (s : State) : State := s.setFrame []

/-- `Clear(payloadBytes)` (R14). -/
def clearPayload (s : State) : State := s.setPayload []

end State

/-- `Append(frameBytes, b)` (R14). It reads the buffer, so it faults where the buffer holds no value. -/
def appendFrame (b : Byte) (s : State) : Outcome :=
  withVal (need .frameBytes s.frameBytes) fun fb => .next (s.setFrame (fb ++ [b]))

/-- `Append(payloadBytes, b)` (R14). It reads the buffer, so it faults where the buffer holds no value. -/
def appendPayload (b : Byte) (s : State) : Outcome :=
  withVal (need .payloadBytes s.payloadBytes) fun pb => .next (s.setPayload (pb ++ [b]))

/-- What the block finds when it looks for its next operation. -/
inductive Fetched where
  /-- The host has issued nothing. -/
  | idle
  /-- The next operation was started while another was in progress. -/
  | overlapped
  /-- The next operation, and the state it runs on: no longer waiting. -/
  | word (w : HostWord) (s : State)
  deriving DecidableEq, Repr

/-- Takes the host's next operation (R48). -/
def fetch (s : State) : Fetched :=
  match s.pending with
  | [] => .idle
  | i :: rest => if i.overlaps then .overlapped else .word i.word (s.setPending rest)

/-- An operation issued in its turn. -/
def Issue.inTurn (w : HostWord) : Issue := ⟨w, false⟩

end Sys2Proof.Machine
end

