-- ==== Sys2Proof/Machine/Operands.lean ====
section
/-!
DEFINITION. Operand forms: the two byte fields of a 16-bit value and their big-endian assembly (00_scope.md rule R10,
20_memory.md rule R42, 30_encoding.md rules R61 and R62).
-/

namespace Sys2Proof.Machine

/-- `w[15:8]` (R10). -/
def hiByte (w : Word16) : Byte := w.extractLsb' 8 8

/-- `w[7:0]` (R10). -/
def loByte (w : Word16) : Byte := w.extractLsb' 0 8

/-- `hi ‖ lo`, high byte first (R42, R61, R62). -/
def join (hi lo : Byte) : Word16 := hi ++ lo

/-- The 16-bit length operand `L` of a payload (R69, R80). -/
def lenField (payload : List Byte) : Word16 := BitVec.ofNat 16 payload.length

end Sys2Proof.Machine
end

