-- ==== Sys2Proof/Machine/Crc.lean ====
section
/-!
DEFINITION. The CRC-16 engine of 41_crc.md: `CRC_STEP` (rule R90) and `CRC16` (rule R91), pure functions of the block.
-/

namespace Sys2Proof.Machine

/-- How an input byte enters the register: as it is when `CRC_MSB_FIRST` (R7). The reflected reading of the other value is
PRESUMED and never used (log entry 13). -/
def crcIn (b : Byte) : Byte := if Config.CRC_MSB_FIRST then b else b.reverse

/-- How the register leaves the engine: as it is when `CRC_MSB_FIRST` (R7; log entry 13). -/
def crcOut (r : Word16) : Word16 := if Config.CRC_MSB_FIRST then r else r.reverse

/-- One turn of the loop of R90: shift left, and XOR the polynomial when the bit shifted out was 1. -/
def crcBit (r : Word16) : Word16 := if r.msb then (r <<< 1) ^^^ Config.CRC_POLY else r <<< 1

/-- `n` turns of the loop of R90. -/
def crcBits : Nat → Word16 → Word16
  | 0, r => r
  | n + 1, r => crcBits n (crcBit r)

/-- `CRC_STEP(r, b)` (R90): XOR the byte into the high byte, then eight turns. -/
def crcStep (r : Word16) (b : Byte) : Word16 := crcBits 8 (r ^^^ ((crcIn b).setWidth 16 <<< 8))

/-- The register after a byte sequence, index 0 first, from `r` (R91). -/
def crcFold (r : Word16) (s : List Byte) : Word16 := s.foldl crcStep r

/-- `CRC16(s)` (R91). -/
def crc16 (s : List Byte) : Word16 := crcOut (crcFold Config.CRC_INIT s) ^^^ Config.CRC_XOROUT

end Sys2Proof.Machine
end

