-- ==== Sys2Proof/Machine/Flags.lean ====
section
/-!
DEFINITION. The condition values of the block. No flag is stored (10_state.md rule R31): the three predicates of
30_encoding.md rule R68 are evaluated on the state before the step, and only in the state that uses them.
-/

namespace Sys2Proof.Machine

/-- `LenZero(b)`: `x[len_hi] = 0 and b = 0` (R68). -/
def flagLenZero (b : Byte) (s : State) : Except Fault Bool :=
  match need .lenHi s.lenHi with
  | .ok h => .ok (h == 0#8 && b == 0#8)
  | .error f => .error f

/-- `PayLast`: `|x[payloadBytes]| + 1 = x[len]` (R68). -/
def flagPayLast (s : State) : Except Fault Bool :=
  match need .payloadBytes s.payloadBytes, need .len s.len with
  | .ok pb, .ok n => .ok (pb.length + 1 == n.toNat)
  | .error f, _ => .error f
  | _, .error f => .error f

/-- `CrcOk(b)`: `(x[crc_hi] ‖ b) = CRC16(x[frameBytes])` (R68, R62). -/
def flagCrcOk (b : Byte) (s : State) : Except Fault Bool :=
  match need .crcHi s.crcHi, need .frameBytes s.frameBytes with
  | .ok h, .ok fb => .ok (join h b == crc16 fb)
  | .error f, _ => .error f
  | _, .error f => .error f

/-- The predicate of the state with code `c`; states without one give `false`, which their rows do not look at (R67). -/
def statePredicate (c : StateCode) (b : Byte) (s : State) : Except Fault Bool :=
  if c = DState.awaitLenLo.code then flagLenZero b s
  else if c = DState.awaitPayload.code then flagPayLast s
  else if c = DState.awaitCrcLo.code then flagCrcOk b s
  else .ok false

end Sys2Proof.Machine
end

