-- ==== Sys2Proof/Machine/Receive.lean ====
section
/-!
DEFINITION. The fourteen transitions of 42_decoder.md (rules R101 to R114), each the pseudocode of its rule. A transition's row
is selected by `RX_BYTE` (rule R100, Machine/HostOps.lean); the meaning itself is the rule's effect (log entry 8).
-/

namespace Sys2Proof.Machine

/-- `PRE_MATCH` (R101). -/
def execPreMatch (s : State) : Outcome := .next ((s.goto .awaitType).ret .needMore)

/-- `PRE_SKIP` (R102): the byte is ignored and no element is written. -/
def execPreSkip (_b : Byte) (s : State) : Outcome := .next (s.ret .needMore)

/-- `TYPE` (R103). -/
def execType (b : Byte) (s : State) : Outcome :=
  .next (((((s.setKind b).startFrame b).clearPayload).goto .awaitCode).ret .needMore)

/-- `CODE` (R104). -/
def execCode (b : Byte) (s : State) : Outcome :=
  seq (appendFrame b (s.setCode b)) fun t => .next ((t.goto .awaitLenHi).ret .needMore)

/-- `LENHI` (R105). -/
def execLenhi (b : Byte) (s : State) : Outcome :=
  seq (appendFrame b (s.setLenHi b)) fun t => .next ((t.goto .awaitLenLo).ret .needMore)

/-- The part R106 and R107 share: store the low length byte, append it, and assemble `len`. -/
def takeLenLo (b : Byte) (s : State) : Outcome :=
  seq (appendFrame b (s.setLenLo b)) fun t =>
    withVal (need .lenHi t.lenHi) fun h => .next (t.setLen (join h b))

/-- `LENLO_ZERO` (R106): "if len==0 skip payload". -/
def execLenloZero (b : Byte) (s : State) : Outcome :=
  seq (takeLenLo b s) fun t => .next ((t.goto .awaitEndMark).ret .needMore)

/-- `LENLO_NZ` (R107). -/
def execLenloNz (b : Byte) (s : State) : Outcome :=
  seq (takeLenLo b s) fun t => .next ((t.goto .awaitPayload).ret .needMore)

/-- The part R108 and R109 share: append the byte to both buffers. -/
def takePayload (b : Byte) (s : State) : Outcome := seq (appendPayload b s) (appendFrame b)

/-- `PAY_MORE` (R108): `pc` stays. -/
def execPayMore (b : Byte) (s : State) : Outcome := seq (takePayload b s) fun t => .next (t.ret .needMore)

/-- `PAY_LAST` (R109). -/
def execPayLast (b : Byte) (s : State) : Outcome :=
  seq (takePayload b s) fun t => .next ((t.goto .awaitEndMark).ret .needMore)

/-- `END_OK` (R110): the byte is `ENDMARK`, the last one the CRC covers. -/
def execEndOk (s : State) : Outcome :=
  seq (appendFrame Config.ENDMARK s) fun t => .next ((t.goto .awaitCrcHi).ret .needMore)

/-- `END_BAD` (R111): the byte is consumed, never looked at again. -/
def execEndBad (b : Byte) (s : State) : Outcome :=
  seq (appendFrame b s) fun t => .next ((t.goto .awaitPreamble).ret .needMore)

/-- `CRCHI` (R112): `frameBytes` does not grow. -/
def execCrchi (b : Byte) (s : State) : Outcome := .next (((s.setCrcHi b).goto .awaitCrcLo).ret .needMore)

/-- `CRCLO_OK` (R113): the frame is delivered; the buffers keep their contents. -/
def execCrcloOk (b : Byte) (s : State) : Outcome :=
  withVal (need .kind s.kind) fun k =>
    withVal (need .code s.code) fun c =>
      withVal (need .payloadBytes s.payloadBytes) fun p =>
        .next (((s.setCrcLo b).goto .awaitPreamble).ret (.frameReady k c p))

/-- `CRCLO_BAD` (R114): the frame is dropped without a trace. -/
def execCrcloBad (b : Byte) (s : State) : Outcome :=
  .next (((s.setCrcLo b).goto .awaitPreamble).ret .needMore)

/-- Runs the transition of a selected row (R100). -/
def runRow (row : Row) (b : Byte) (s : State) : Outcome :=
  match row with
  | .preMatch => execPreMatch s
  | .preSkip => execPreSkip b s
  | .type => execType b s
  | .code => execCode b s
  | .lenhi => execLenhi b s
  | .lenloZero => execLenloZero b s
  | .lenloNz => execLenloNz b s
  | .payMore => execPayMore b s
  | .payLast => execPayLast b s
  | .endOk => execEndOk s
  | .endBad => execEndBad b s
  | .crchi => execCrchi b s
  | .crcloOk => execCrcloOk b s
  | .crcloBad => execCrcloBad b s

/-- Runs the transition of the row that was selected, if one was; no row matches an unused state code (R71 (a), R132). -/
def runSelected (row : Option Row) (b : Byte) (s : State) : Outcome :=
  match row with
  | some row => runRow row b s
  | none => .fault .illegalState

end Sys2Proof.Machine
end

