-- ==== Sys2Proof/Machine/HostOps.lean ====
section
/-!
DEFINITION. The four host operations of 30_encoding.md rule R69: `RX_BYTE` (42_decoder.md rule R100), `RESET` and `DISCONNECT`
(70_reset_and_hazards.md rules R150, R151) and `TX_FRAME` with the frame it builds (40_encoder.md rule R80).
-/

namespace Sys2Proof.Machine

/-- The bytes the CRC covers: `[kind, code, L[15:8], L[7:0]] ++ payload ++ [ENDMARK]` (R80, R65). -/
def frameBody (kind code : Byte) (payload : List Byte) : List Byte :=
  [kind, code, hiByte (lenField payload), loByte (lenField payload)] ++ payload ++ [Config.ENDMARK]

/-- The wire frame of R60, the value of the source's `Encode` (R80). -/
def encodeFrame (kind code : Byte) (payload : List Byte) : List Byte :=
  [Config.PREAMBLE] ++ frameBody kind code payload ++
    [hiByte (crc16 (frameBody kind code payload)), loByte (crc16 (frameBody kind code payload))]

/-- `RX_BYTE(b)` (R100): the admission check, then the one transition whose row matches `x[state] ‖ b` and whose predicate
holds. -/
def execRxByte (b : Byte) (s : State) : Outcome :=
  if s.connected then
    withVal (need .state s.state) fun c =>
      if DState.lastCode < c then .fault .illegalState
      else
        withVal (statePredicate c b s) fun p => runSelected (selectRow (dispatchWord c b) p) b s
  else .refused .notConnected

/-- `RESET`, which is connect (R150). -/
def execReset (s : State) : Outcome :=
  .next (((((s.setConnected true).goto .awaitPreamble).clearFrame.clearPayload).forgetFields).ret .none)

/-- `TX_FRAME(kind, code, payload)` (R80). -/
def execTxFrame (kind code : Byte) (payload : List Byte) (s : State) : Outcome :=
  if s.connected then
    if Config.MAX_PAYLOAD < payload.length then .refused .payloadTooLong
    else .next (s.ret (.bytes (encodeFrame kind code payload)))
  else .refused .notConnected

/-- `DISCONNECT` (R151). -/
def execDisconnect (s : State) : Outcome :=
  .next ((((s.setConnected false).forgetFrame).forgetFields).ret .none)

end Sys2Proof.Machine
end

