-- ==== Sys2Proof/Machine/Dispatch.lean ====
section
/-!
DEFINITION. The dispatch: one arm per instruction, each a direct call of its meaning.
-/

namespace Sys2Proof.Machine

def exec (i : Instr) (s : State) : Host.Outcome State Fault Refusal :=
  match i with
  | .preMatch => Sys2Proof.Machine.execPreMatch s
  | .preSkip b => Sys2Proof.Machine.execPreSkip b s
  | .type b => Sys2Proof.Machine.execType b s
  | .code b => Sys2Proof.Machine.execCode b s
  | .lenhi b => Sys2Proof.Machine.execLenhi b s
  | .lenloZero b => Sys2Proof.Machine.execLenloZero b s
  | .lenloNz b => Sys2Proof.Machine.execLenloNz b s
  | .payMore b => Sys2Proof.Machine.execPayMore b s
  | .payLast b => Sys2Proof.Machine.execPayLast b s
  | .endOk => Sys2Proof.Machine.execEndOk s
  | .endBad b => Sys2Proof.Machine.execEndBad b s
  | .crchi b => Sys2Proof.Machine.execCrchi b s
  | .crcloOk b => Sys2Proof.Machine.execCrcloOk b s
  | .crcloBad b => Sys2Proof.Machine.execCrcloBad b s
  | .rxByte b => Sys2Proof.Machine.execRxByte b s
  | .reset => Sys2Proof.Machine.execReset s
  | .txFrame kind code payload => Sys2Proof.Machine.execTxFrame kind code payload s
  | .disconnect => Sys2Proof.Machine.execDisconnect s

end Sys2Proof.Machine
end

