-- ==== Sys2Proof/Machine/Placement.lean ====
section
/-!
DEFINITION. Placing one opcode-table word so that the very next step runs it (log entry 10): a host operation is issued next; a
dispatch word is made the word the next `RX_BYTE` forms, by setting the decoder state register and the elements the row reads.
-/

namespace Sys2Proof.Machine

/-- Issues an operation before every waiting one. -/
def issueNext (w : HostWord) (s : State) : State := s.setPending (Issue.inTurn w :: s.pending)

/-- Gives the CRC input buffer a value where it has none. -/
def ensureFrame (s : State) : State := s.setFrame (s.frameBytes.getD [])

/-- Gives the elements that state `c` reads the values under which its predicate is `barePredicate`. -/
def primeFor (c : StateCode) (s : State) : State :=
  if c = DState.awaitPreamble.code ∨ c = DState.awaitType.code ∨ c = DState.awaitCrcHi.code then s
  else if c = DState.awaitLenLo.code then (ensureFrame s).setLenHi 0#8
  else if c = DState.awaitPayload.code then ((ensureFrame s).clearPayload).setLen 1#16
  else if c = DState.awaitCrcLo.code then
    (ensureFrame s).setCrcHi (~~~ hiByte (crc16 (s.frameBytes.getD [])))
  else ensureFrame s

/-- Makes `w` the dispatch word of the next step: a connected block in state `w[11:8]` that is issued `RX_BYTE(w[7:0])`. -/
def placeDispatch (w : DispatchWord) (s : State) : State :=
  issueNext (.rx (DispatchWord.byteField w))
    (primeFor (DispatchWord.stateField w)
      { s with connected := true, state := some (DispatchWord.stateField w) })

end Sys2Proof.Machine
end

