-- ==== Sys2Proof/Machine/Step.lean ====
section
/-!
DEFINITION. One step of the block: it takes the next operation the host issued, decodes it and runs it, as one atomic step
(20_memory.md rules R46, R48). With nothing issued it stays as it is and returns nothing (log entry 3).
-/

namespace Sys2Proof.Machine

/-- One step. -/
def step (s : State) : Host.Outcome State Fault Refusal :=
  match fetch s with
  | .idle => .next (s.ret .none)
  | .overlapped => .refused .interleaved
  | .word w t => exec (decodeHost w) t

/-- `s` with an opcode-table word placed so that the next step runs it (log entry 10). -/
def State.withFetchWord (s : State) (nbits w : Nat) : State :=
  if nbits ≤ 8 then issueNext (.ofBits w) s else placeDispatch (BitVec.ofNat 12 w) s

end Sys2Proof.Machine
end

