-- ==== Sys2Proof/Machine/Asm.lean ====
section
/-!
DEFINITION. The program notation of 30_encoding.md rules R72 and R73: the lines of a program, the host operations each stands
for, and a reader of the text form. Notation only: the machine takes host operations, never text (log entry 18).
-/

namespace Sys2Proof.Machine

/-- One line of a program: the four operations of R72, then the pseudo-operations of R73. -/
inductive AsmLine where
  /-- `RESET`. -/
  | reset
  /-- `DISCONNECT`. -/
  | disconnect
  /-- `RX b`. -/
  | rx (b : Byte)
  /-- `TX k, c, [p0 p1 …]`. -/
  | tx (k c : Byte) (p : List Byte)
  /-- `RXS b0 b1 … bn`. -/
  | rxs (bs : List Byte)
  /-- `RXF k, c, [p…]`. -/
  | rxf (k c : Byte) (p : List Byte)
  /-- `RXF! k, c, [p…], m`. -/
  | rxfBad (k c : Byte) (p : List Byte) (m : Byte)
  deriving DecidableEq, Repr

/-- XORs a mask into the last byte of a sequence (R73). -/
def xorLast (m : Byte) : List Byte → List Byte
  | [] => []
  | [b] => [b ^^^ m]
  | b :: b' :: bs => b :: xorLast m (b' :: bs)

/-- The host operations a line stands for (R72, R73). `none` where R73 gives the line no meaning: `Encode` of a payload that is
too long, and `RXF!` with the mask 0. -/
def AsmLine.expand : AsmLine → Option (List HostWord)
  | .reset => some [.connect]
  | .disconnect => some [.disconnect]
  | .rx b => some [.rx b]
  | .tx k c p => some [.tx k c p]
  | .rxs bs => some (bs.map .rx)
  | .rxf k c p => if Config.MAX_PAYLOAD < p.length then none else some ((encodeFrame k c p).map .rx)
  | .rxfBad k c p m =>
    if Config.MAX_PAYLOAD < p.length ∨ m = 0#8 then none else some ((xorLast m (encodeFrame k c p)).map .rx)

/-- The host operations of a program, line by line in order. -/
def expandProgram : List AsmLine → Option (List HostWord)
  | [] => some []
  | l :: ls =>
    match l.expand, expandProgram ls with
    | some a, some b => some (a ++ b)
    | _, _ => none

/-- A word, a comma or a bracket of a program line. -/
inductive AsmToken where
  | word (cs : List Char)
  | comma
  | leftBracket
  | rightBracket
  deriving DecidableEq, Repr

/-- Ends the word being read, if there is one. The word is kept reversed. -/
def endWord (cur : List Char) (rest : List AsmToken) : List AsmToken :=
  match cur with
  | [] => rest
  | c :: cs => .word (c :: cs).reverse :: rest

/-- The tokens of a line; `;` starts a comment (R72). -/
def lexLine : List Char → List Char → List AsmToken
  | [], cur => endWord cur []
  | c :: cs, cur =>
    if c = ';' then endWord cur []
    else if c = ' ' ∨ c = '\t' ∨ c = '\r' then endWord cur (lexLine cs [])
    else if c = ',' then endWord cur (.comma :: lexLine cs [])
    else if c = '[' then endWord cur (.leftBracket :: lexLine cs [])
    else if c = ']' then endWord cur (.rightBracket :: lexLine cs [])
    else lexLine cs (c :: cur)

/-- The value of a hexadecimal digit, either case. -/
def hexDigit (c : Char) : Option Nat :=
  if '0' ≤ c ∧ c ≤ '9' then some (c.toNat - '0'.toNat)
  else if 'a' ≤ c ∧ c ≤ 'f' then some (c.toNat - 'a'.toNat + 10)
  else if 'A' ≤ c ∧ c ≤ 'F' then some (c.toNat - 'A'.toNat + 10)
  else none

/-- The value of hexadecimal digits, most significant first, after the value `n` of those already read. -/
def hexDigits : List Char → Nat → Option Nat
  | [], n => some n
  | c :: cs, n =>
    match hexDigit c with
    | some d => hexDigits cs (16 * n + d)
    | none => none

/-- A number of 8 bits: `0x..`, or the two-digit form of byte lists (R72). -/
def readByte (cs : List Char) : Option Byte :=
  let digits : Option (List Char) :=
    match cs with
    | [a, b] => some [a, b]
    | '0' :: 'x' :: d :: ds => some (d :: ds)
    | _ => none
  match digits.bind fun ds => hexDigits ds 0 with
  | some n => if n < 256 then some (BitVec.ofNat 8 n) else none
  | none => none

/-- Bytes up to a closing bracket, and what follows it. -/
def readBytes : List AsmToken → Option (List Byte × List AsmToken)
  | .word cs :: ts =>
    match readByte cs, readBytes ts with
    | some b, some (bs, rest) => some (b :: bs, rest)
    | _, _ => none
  | .rightBracket :: ts => some ([], ts)
  | _ => none

/-- Bytes up to the end of the line. -/
def readAllBytes : List AsmToken → Option (List Byte)
  | [] => some []
  | .word cs :: ts =>
    match readByte cs, readAllBytes ts with
    | some b, some bs => some (b :: bs)
    | _, _ => none
  | _ => none

/-- The operands `k, c, [p…]`, and what follows them. -/
def readFrame : List AsmToken → Option (Byte × Byte × List Byte × List AsmToken)
  | .word k :: .comma :: .word c :: .comma :: .leftBracket :: ts =>
    match readByte k, readByte c, readBytes ts with
    | some k, some c, some (p, rest) => some (k, c, p, rest)
    | _, _, _ => none
  | _ => none

/-- One operation from the tokens of a line. -/
def readTokens : List AsmToken → Option AsmLine
  | [.word ['R', 'E', 'S', 'E', 'T']] => some .reset
  | [.word ['D', 'I', 'S', 'C', 'O', 'N', 'N', 'E', 'C', 'T']] => some .disconnect
  | [.word ['R', 'X'], .word b] => (readByte b).map .rx
  | .word ['R', 'X', 'S'] :: ts => (readAllBytes ts).map .rxs
  | .word ['T', 'X'] :: ts =>
    match readFrame ts with
    | some (k, c, p, []) => some (.tx k c p)
    | _ => none
  | .word ['R', 'X', 'F'] :: ts =>
    match readFrame ts with
    | some (k, c, p, []) => some (.rxf k c p)
    | _ => none
  | .word ['R', 'X', 'F', '!'] :: ts =>
    match readFrame ts with
    | some (k, c, p, [.comma, .word m]) => (readByte m).map (.rxfBad k c p)
    | _ => none
  | _ => none

/-- Reads a program, one operation a line; a line with nothing but a comment is skipped. `none` where a line is none of R72 or
R73. -/
def readProgram : List (List Char) → Option (List AsmLine)
  | [] => some []
  | l :: ls =>
    match lexLine l [] with
    | [] => readProgram ls
    | t :: ts =>
      match readTokens (t :: ts), readProgram ls with
      | some a, some as => some (a :: as)
      | _, _ => none

end Sys2Proof.Machine
end

