-- ==== Sys2Proof/Machine/Instances.lean ====
section
/-!
DEFINITION. Several connections: one independent block each, which share no state (00_scope.md rule R9, 60_exceptions.md rule
R139; log entry 17).
-/

namespace Sys2Proof.Machine

/-- One step of the block of connection `n`; every other block stays as it is (R139). Where that block's step faults or is refused
the step of the whole list ends with the same fault or refusal: the spec says nothing of the other connections there (DESIGN
CHOICE, log entry 17). A step named for a connection that does not exist changes nothing (DESIGN CHOICE, log entry 17). -/
def stepInstance (n : Nat) (blocks : List State) : Host.Outcome (List State) Fault Refusal :=
  match blocks[n]? with
  | none => .next blocks
  | some s =>
    match step s with
    | .next t => .next (blocks.set n t)
    | .fault f => .fault f
    | .refused r => .refused r

end Sys2Proof.Machine
end

