-- ==== Sys2Proof/Machine/RunningCrc.lean ====
section
/-!
DEFINITION. The incremental design of 41_crc.md rule R95: a decoder that keeps a running 16-bit CRC register `acc` in place of
the `frameBytes` buffer. It stands beside the block, which keeps the buffer (92_eei_decisions.md D21), so that the rule's claim
that the two give the same results can be stated.
-/

namespace Sys2Proof.Machine

/-- The block of R95: the elements of R20 other than `frameBytes`, which it leaves without a value, and the running register. -/
structure Running where
  block : State
  acc : Option Word16
  deriving DecidableEq, Repr

/-- The register after a row: set where R103 starts the buffer, advanced where a rule appends to it. The append of R111 is
skipped, as R95 allows. -/
def accAfter (row : Row) (b : Byte) (acc : Option Word16) : Option Word16 :=
  match row with
  | .type => some (crcStep Config.CRC_INIT b)
  | .code => acc.map fun a => crcStep a b
  | .lenhi => acc.map fun a => crcStep a b
  | .lenloZero => acc.map fun a => crcStep a b
  | .lenloNz => acc.map fun a => crcStep a b
  | .payMore => acc.map fun a => crcStep a b
  | .payLast => acc.map fun a => crcStep a b
  | .endOk => acc.map fun a => crcStep a b
  | .preMatch => acc
  | .preSkip => acc
  | .endBad => acc
  | .crchi => acc
  | .crcloOk => acc
  | .crcloBad => acc

/-- The predicate of R68, with `acc` where the block compares `CRC16(x[frameBytes])`. -/
def accPredicate (c : StateCode) (b : Byte) (r : Running) : Except Fault Bool :=
  if c = DState.awaitCrcLo.code then
    match need .crcHi r.block.crcHi, need .frameBytes r.acc with
    | .ok h, .ok a => .ok (join h b == a)
    | .error f, _ => .error f
    | _, .error f => .error f
  else statePredicate c b r.block

/-- The rest of a row's effect, on a block without the buffer: an empty stand-in takes the appends and is dropped again. -/
def runRowAcc (row : Row) (b : Byte) (r : Running) : Host.Outcome Running Fault Refusal :=
  match runRow row b { r.block with frameBytes := r.acc.map fun _ => [] } with
  | .next t => .next ⟨{ t with frameBytes := none }, accAfter row b r.acc⟩
  | .fault f => .fault f
  | .refused f => .refused f

/-- `RX_BYTE(b)` of the incremental design. -/
def rxByteAcc (b : Byte) (r : Running) : Host.Outcome Running Fault Refusal :=
  if r.block.connected then
    match need .state r.block.state with
    | .error f => .fault f
    | .ok c =>
      if DState.lastCode < c then .fault .illegalState
      else
        match accPredicate c b r with
        | .error f => .fault f
        | .ok p =>
          match selectRow (dispatchWord c b) p with
          | some row => runRowAcc row b r
          | none => .fault .illegalState
  else .refused .notConnected

end Sys2Proof.Machine
end

