-- ==== Sys2Proof/Safety.lean ====
section
/-!
DEFINITION. The terms the statements use: being in a decoder state, which elements an instruction writes (10_state.md rule R20),
the invariant of rule R28 with the values of rule R34, and runs of several steps with the results they return.
-/

namespace Sys2Proof.Machine

/-- The decoder state register holds the code of `d`. -/
abbrev State.isIn (s : State) (d : DState) : Prop := s.state = some d.code

/-- Every element of rule R20 is the same; what the host has issued and the last result may differ. -/
def State.sameBlock (s t : State) : Prop := { s with pending := t.pending, result := t.result } = t

/-- Element `e` is the same in two states. -/
def Element.same (s t : State) : Element → Prop
  | .connected => s.connected = t.connected
  | .state => s.state = t.state
  | .kind => s.kind = t.kind
  | .code => s.code = t.code
  | .lenHi => s.lenHi = t.lenHi
  | .lenLo => s.lenLo = t.lenLo
  | .len => s.len = t.len
  | .crcHi => s.crcHi = t.crcHi
  | .crcLo => s.crcLo = t.crcLo
  | .frameBytes => s.frameBytes = t.frameBytes
  | .payloadBytes => s.payloadBytes = t.payloadBytes

/-- Every element of rule R20. -/
def allElements : List Element :=
  [.connected, .state, .kind, .code, .lenHi, .lenLo, .len, .crcHi, .crcLo, .frameBytes, .payloadBytes]

/-- The elements an instruction may write: the column "written by" of rule R20, read row by row. `RX_BYTE` may write what its
transitions write. -/
def writes : Instr → List Element
  | .preMatch => [.state]
  | .preSkip _ => []
  | .type _ => [.state, .kind, .frameBytes, .payloadBytes]
  | .code _ => [.state, .code, .frameBytes]
  | .lenhi _ => [.state, .lenHi, .frameBytes]
  | .lenloZero _ => [.state, .lenLo, .len, .frameBytes]
  | .lenloNz _ => [.state, .lenLo, .len, .frameBytes]
  | .payMore _ => [.frameBytes, .payloadBytes]
  | .payLast _ => [.state, .frameBytes, .payloadBytes]
  | .endOk => [.state, .frameBytes]
  | .endBad _ => [.state, .frameBytes]
  | .crchi _ => [.state, .crcHi]
  | .crcloOk _ => [.state, .crcLo]
  | .crcloBad _ => [.state, .crcLo]
  | .rxByte _ => [.state, .kind, .code, .lenHi, .lenLo, .len, .crcHi, .crcLo, .frameBytes, .payloadBytes]
  | .reset => allElements
  | .txFrame _ _ _ => []
  | .disconnect => allElements

/-- The elements whose values a later `RX_BYTE` may still read from decoder state `d` on, before a rule writes them again: what the
rules R104 to R114 append to, assemble, compare and deliver. Between frames, and at the kind byte, there is none (R115, R28). -/
def DState.live : DState → List Element
  | .awaitPreamble => []
  | .awaitType => []
  | .awaitCode => [.kind, .frameBytes, .payloadBytes]
  | .awaitLenHi => [.kind, .code, .frameBytes, .payloadBytes]
  | .awaitLenLo => [.kind, .code, .lenHi, .frameBytes, .payloadBytes]
  | .awaitPayload => [.kind, .code, .len, .frameBytes, .payloadBytes]
  | .awaitEndMark => [.kind, .code, .frameBytes, .payloadBytes]
  | .awaitCrcHi => [.kind, .code, .frameBytes, .payloadBytes]
  | .awaitCrcLo => [.kind, .code, .crcHi, .frameBytes, .payloadBytes]

/-- Two blocks that no later byte can tell apart: connected alike, in the same decoder state, and with the same live elements. -/
def State.alike (s t : State) : Prop :=
  s.connected = t.connected ∧ s.state = t.state ∧ ∀ d : DState, s.isIn d → ∀ e ∈ DState.live d, e.same s t

/-- Every element but `connected` holds no value: the last two columns of rule R34. -/
def State.discarded (s : State) : Prop :=
  s.state = none ∧ s.kind = none ∧ s.code = none ∧ s.lenHi = none ∧ s.lenLo = none ∧ s.len = none ∧ s.crcHi = none ∧
    s.crcLo = none ∧ s.frameBytes = none ∧ s.payloadBytes = none

/-- From `AwaitPayload` on: the header has been received and `len` assembled, and the CRC input is the header, the payload so far
and `tail` (R28). -/
def State.holdsHeader (s : State) (pb tail : List Byte) : Prop :=
  ∃ k c h l, s.kind = some k ∧ s.code = some c ∧ s.lenHi = some h ∧ s.lenLo = some l ∧ s.len = some (join h l) ∧
    s.payloadBytes = some pb ∧ s.frameBytes = some ([k, c, h, l] ++ pb ++ tail)

/-- The row of rule R28 for decoder state `d`, with the sentence below its table: which bytes `frameBytes` holds. -/
def State.rowOfR28 (s : State) : DState → Prop
  | .awaitPreamble => True
  | .awaitType => True
  | .awaitCode => ∃ k, s.kind = some k ∧ s.frameBytes = some [k] ∧ s.payloadBytes = some []
  | .awaitLenHi => ∃ k c, s.kind = some k ∧ s.code = some c ∧ s.frameBytes = some [k, c] ∧ s.payloadBytes = some []
  | .awaitLenLo => ∃ k c h, s.kind = some k ∧ s.code = some c ∧ s.lenHi = some h ∧ s.frameBytes = some [k, c, h] ∧
      s.payloadBytes = some []
  | .awaitPayload => ∃ pb n, s.holdsHeader pb [] ∧ s.len = some n ∧ pb.length < n.toNat
  | .awaitEndMark => ∃ pb n, s.holdsHeader pb [] ∧ s.len = some n ∧ pb.length = n.toNat
  | .awaitCrcHi => ∃ pb n, s.holdsHeader pb [Config.ENDMARK] ∧ s.len = some n ∧ pb.length = n.toNat
  | .awaitCrcLo => ∃ pb n, s.holdsHeader pb [Config.ENDMARK] ∧ s.len = some n ∧ pb.length = n.toNat ∧
      ∃ h, s.crcHi = some h

/-- The buffers hold values within the bounds of rule R41. -/
def State.buffersBounded (s : State) : Prop :=
  ∃ fb pb, s.frameBytes = some fb ∧ s.payloadBytes = some pb ∧ fb.length ≤ Config.maxFrameBytes ∧
    pb.length ≤ Config.MAX_PAYLOAD

/-- The invariant of the block: outside a connection nothing holds a value (R34); inside one the state code is legal (R21), the
buffers are within their bounds (R41) and the row of rule R28 holds. -/
def BlockInv (s : State) : Prop :=
  (s.connected = false → s.discarded) ∧
    (s.connected = true → s.buffersBounded ∧ ∃ d : DState, s.isIn d ∧ s.rowOfR28 d)

/-- `s` with exactly these operations issued, each in its turn. -/
def State.withOps (s : State) (ws : List HostWord) : State := { s with pending := ws.map Issue.inTurn }

/-- `n` steps and the result each returned; `none` where a step stops. -/
def trace : Nat → State → Option (List OpResult × State)
  | 0, s => some ([], s)
  | n + 1, s =>
    match step s with
    | .next t => (trace n t).map fun x => (t.result :: x.1, x.2)
    | .fault _ => none
    | .refused _ => none

/-- Runs the operations `ws` one after another from `s`, and nothing else. -/
def runOps (ws : List HostWord) (s : State) : Option (List OpResult × State) := trace ws.length (s.withOps ws)

/-- Receives the bytes `bs` one after another from `s`. -/
def receive (bs : List Byte) (s : State) : Option (List OpResult × State) := runOps (bs.map .rx) s

/-- The result is one an `RX_BYTE` returns. -/
def OpResult.isRx : OpResult → Bool
  | .needMore => true
  | .frameReady _ _ _ => true
  | .none => false
  | .bytes _ => false

/-- The incremental design of R95 keeps up with the block: the same elements without the buffer, and `acc` is the CRC of the
buffer wherever a later comparison can read it. -/
def Running.follows (r : Running) (s : State) : Prop :=
  r.block = { s with frameBytes := none } ∧
    (s.isIn .awaitPreamble ∨ s.isIn .awaitType ∨ r.acc = s.frameBytes.map crc16)

/-- Two steps that end alike: in states that correspond, or with the same fault, or with the same refusal. -/
def Running.agrees : Host.Outcome Running Fault Refusal → Outcome → Prop
  | .next r, .next s => r.follows s
  | .fault f, .fault g => f = g
  | .refused f, .refused g => f = g
  | _, _ => False

end Sys2Proof.Machine

namespace Sys2Proof

/-- The operation is an `RX_BYTE`. -/
def HostWord.isRx (w : HostWord) : Bool := w.op == 0b00#2

/-- The operation is an `RX_BYTE`, or a `TX_FRAME` whose payload is within the bound. -/
def HostWord.isTraffic (w : HostWord) : Bool :=
  w.op == 0b00#2 || (w.op == 0b10#2 && decide (w.payload.length ≤ Config.MAX_PAYLOAD))

/-- The rows that win on a dispatch word: they apply, and no row that applies has a lower priority number (R70). -/
def winners (w : DispatchWord) (p : Bool) : List RowEntry :=
  (hits w p).filter fun e => (hits w p).all fun f => decide (e.priority ≤ f.priority)

end Sys2Proof
end

