-- ==== Sys2Proof/Certificates/Slice0/Obligations.lean ====
section
/-!
DEFINITION. The statements about the Frame Codec, each a `def Obligations.<Name> : Prop`. OBLIGATIONS.json lists them with the
rules they rest on. A docstring says which rule a statement formalises, and where a clause rests on a decision of the spec's own
(92_eei_decisions.md D<n>) or of this model (a log entry).
-/

open Sys2Proof Sys2Proof.Machine

/-! ### Encoding and decoding -/

/-- Dispatch words and host operations written out from R69, R70 and R101 to R114 decode to the instruction they stand for. -/
def Obligations.SpecWordsDecode : Prop :=
  decode (.dispatch 0b0000_1011_1011#12 false) = .ok .preMatch ∧
  decode (.dispatch 0b0000_0111_1110#12 false) = .ok (.preSkip 0x7E#8) ∧
  decode (.dispatch 0b0001_1011_1011#12 false) = .ok (.type 0xBB#8) ∧
  decode (.dispatch 0b0100_0000_0000#12 true) = .ok (.lenloZero 0x00#8) ∧
  decode (.dispatch 0b0100_0000_0000#12 false) = .ok (.lenloNz 0x00#8) ∧
  decode (.dispatch 0b0101_0111_1110#12 true) = .ok (.payLast 0x7E#8) ∧
  decode (.dispatch 0b0110_0111_1110#12 false) = .ok .endOk ∧
  decode (.dispatch 0b0110_1011_1011#12 false) = .ok (.endBad 0xBB#8) ∧
  decode (.dispatch 0b1000_1010_1011#12 true) = .ok (.crcloOk 0xAB#8) ∧
  decode (.dispatch 0b1001_0000_0000#12 false) = .error .illegalState ∧
  decode (.host ⟨0b00#2, 0x48#8, 0x00#8, 0x00#8, []⟩) = .ok (.rxByte 0x48#8) ∧
  decode (.host ⟨0b01#2, 0x00#8, 0x00#8, 0x00#8, []⟩) = .ok .reset ∧
  decode (.host ⟨0b10#2, 0x00#8, 0x01#8, 0xFF#8, [0x36#8, 0x02#8]⟩) = .ok (.txFrame 0x01#8 0xFF#8 [0x36#8, 0x02#8]) ∧
  decode (.host ⟨0b11#2, 0x00#8, 0x00#8, 0x00#8, []⟩) = .ok .disconnect

/-- Decode and encode agree: every well-formed instruction, with every operand it can have, is read back from its own encoding
(R69, R70). -/
def Obligations.DecodeUndoesEncode : Prop :=
  ∀ i : Instr, i.wf = true → decode (encode i) = .ok i

/-- What the decoder reads from a dispatch word is well formed and encodes to that word again (R67, R70), so each word has one
meaning for each value of its state's predicate. -/
def Obligations.DispatchDecodeIsSound : Prop :=
  ∀ (w : DispatchWord) (p : Bool) (i : Instr), decode (.dispatch w p) = .ok i →
    i.wf = true ∧ ∃ q, encode i = .dispatch w q

/-- The transition map is total and deterministic on the nine state codes, and empty on the seven unused ones (R70, R100, R71). -/
def Obligations.ExactlyOneRowWins : Prop :=
  ∀ (w : DispatchWord) (p : Bool),
    (DispatchWord.stateField w ≤ 8#4 → ∃ e, winners w p = [e] ∧ selectRow w p = some e.row) ∧
    (8#4 < DispatchWord.stateField w → hits w p = [] ∧ selectRow w p = none)

/-! ### Steps -/

/-- A step takes the next operation issued in its turn and runs the instruction it decodes to, on the state without it (R46, R48;
log entry 2). -/
def Obligations.StepRunsDecodedOperation : Prop :=
  ∀ (s : State) (w : HostWord) (rest : List Issue) (i : Instr),
    s.pending = Issue.inTurn w :: rest → decode (.host w) = .ok i → step s = exec i { s with pending := rest }

/-- With nothing issued the block keeps every element: nothing in it expires (R140, R156). That such a step is a step at all, and
returns no result, is the model's choice (log entry 3). -/
def Obligations.IdleStepKeepsBlock : Prop :=
  ∀ s : State, s.pending = [] → step s = .next { s with result := .none }

/-- A placed opcode-table word is what the very next step runs (the model's own placement, log entry 10): a host operation on the
state as it was, a dispatch row on the state prepared for it. -/
def Obligations.PlacedWordRunsNext : Prop :=
  ∀ (s : State) (w : Nat) (i : Instr),
    (decodeTableWord 8 w = some i → step (s.withFetchWord 8 w) = exec i s) ∧
    (decodeTableWord 16 w = some i →
      step (s.withFetchWord 16 w) = exec i { s.withFetchWord 16 w with pending := s.pending })

/-! ### The transitions of RX_BYTE

In each, the first clause is the rule's *Encoding* line (the dispatch word is the spec's own framing, D2 and D13) and the second
its effect: what `RX_BYTE` and the row's instruction both do, the whole next state being written out. -/

/-- R101 and R102: in `AwaitPreamble` the preamble byte moves on to `AwaitType`, every other byte is ignored. -/
def Obligations.PreambleSearch : Prop :=
  (∀ (w : DispatchWord) (p : Bool), selectRow w p = some .preMatch ↔ w = dispatchWord 0#4 Config.PREAMBLE) ∧
  (∀ (w : DispatchWord) (p : Bool), selectRow w p = some .preSkip ↔
    DispatchWord.stateField w = 0#4 ∧ DispatchWord.byteField w ≠ Config.PREAMBLE) ∧
  (∀ (s : State) (b : Byte), s.connected = true → s.isIn .awaitPreamble → b = Config.PREAMBLE →
    exec (.rxByte b) s = .next { s with state := some DState.awaitType.code, result := .needMore } ∧
    exec .preMatch s = .next { s with state := some DState.awaitType.code, result := .needMore }) ∧
  (∀ (s : State) (b : Byte), s.connected = true → s.isIn .awaitPreamble → b ≠ Config.PREAMBLE →
    exec (.rxByte b) s = .next { s with result := .needMore } ∧
    exec (.preSkip b) s = .next { s with result := .needMore })

/-- R103: any byte is the kind, and starts the frame. That the payload buffer is emptied here is the spec's own decision D4. -/
def Obligations.TypeByteStartsFrame : Prop :=
  (∀ (w : DispatchWord) (p : Bool), selectRow w p = some .type ↔ DispatchWord.stateField w = 1#4) ∧
  (∀ (s : State) (b : Byte), s.connected = true → s.isIn .awaitType →
    ∀ t, t = { s with kind := some b, frameBytes := some [b], payloadBytes := some [],
                      state := some DState.awaitCode.code, result := .needMore } →
      exec (.rxByte b) s = .next t ∧ exec (.type b) s = .next t)

/-- R104: any byte is the code. -/
def Obligations.CodeByteStored : Prop :=
  (∀ (w : DispatchWord) (p : Bool), selectRow w p = some .code ↔ DispatchWord.stateField w = 2#4) ∧
  (∀ (s : State) (b : Byte) (fb : List Byte), s.connected = true → s.isIn .awaitCode → s.frameBytes = some fb →
    ∀ t, t = { s with code := some b, frameBytes := some (fb ++ [b]), state := some DState.awaitLenHi.code,
                      result := .needMore } →
      exec (.rxByte b) s = .next t ∧ exec (.code b) s = .next t)

/-- R105: any byte is the high length byte. -/
def Obligations.LenHiByteStored : Prop :=
  (∀ (w : DispatchWord) (p : Bool), selectRow w p = some .lenhi ↔ DispatchWord.stateField w = 3#4) ∧
  (∀ (s : State) (b : Byte) (fb : List Byte), s.connected = true → s.isIn .awaitLenHi → s.frameBytes = some fb →
    ∀ t, t = { s with lenHi := some b, frameBytes := some (fb ++ [b]), state := some DState.awaitLenLo.code,
                      result := .needMore } →
      exec (.rxByte b) s = .next t ∧ exec (.lenhi b) s = .next t)

/-- R106: a low length byte that completes the 16-bit length 0 skips the payload. -/
def Obligations.ZeroLengthSkipsPayload : Prop :=
  (∀ (w : DispatchWord) (p : Bool), selectRow w p = some .lenloZero ↔ DispatchWord.stateField w = 4#4 ∧ p = true) ∧
  (∀ (s : State) (b h : Byte), s.lenHi = some h → statePredicate 4#4 b s = .ok (decide (h = 0#8 ∧ b = 0#8))) ∧
  (∀ (s : State) (b h : Byte) (fb : List Byte), s.connected = true → s.isIn .awaitLenLo → s.frameBytes = some fb →
    s.lenHi = some h → h = 0#8 ∧ b = 0#8 →
    ∀ t, t = { s with lenLo := some b, frameBytes := some (fb ++ [b]), len := some 0#16,
                      state := some DState.awaitEndMark.code, result := .needMore } →
      exec (.rxByte b) s = .next t ∧ exec (.lenloZero b) s = .next t)

/-- R107: a low length byte that completes a 16-bit length of 1 to 65535 goes on to the payload. -/
def Obligations.NonzeroLengthAwaitsPayload : Prop :=
  (∀ (w : DispatchWord) (p : Bool), selectRow w p = some .lenloNz ↔ DispatchWord.stateField w = 4#4 ∧ p = false) ∧
  (∀ (s : State) (b h : Byte) (fb : List Byte), s.connected = true → s.isIn .awaitLenLo → s.frameBytes = some fb →
    s.lenHi = some h → ¬(h = 0#8 ∧ b = 0#8) →
    1 ≤ (join h b).toNat ∧
    ∀ t, t = { s with lenLo := some b, frameBytes := some (fb ++ [b]), len := some (join h b),
                      state := some DState.awaitPayload.code, result := .needMore } →
      exec (.rxByte b) s = .next t ∧ exec (.lenloNz b) s = .next t)

/-- R108: a payload byte that is not the last is appended to both buffers, whatever it is. Which byte is the last is the spec's own
decision D6. The condition is the complement of `PayLast`, as R68 and R70 have it, where R108 glosses it as "less than": that
reading is log entry 11 (DEDUCED), and the two agree wherever `BlockInv` holds. -/
def Obligations.PayloadByteAppended : Prop :=
  (∀ (w : DispatchWord) (p : Bool), selectRow w p = some .payMore ↔ DispatchWord.stateField w = 5#4 ∧ p = false) ∧
  (∀ (s : State) (b : Byte) (fb pb : List Byte) (n : Word16), s.connected = true → s.isIn .awaitPayload →
    s.frameBytes = some fb → s.payloadBytes = some pb → s.len = some n → pb.length + 1 ≠ n.toNat →
    ∀ t, t = { s with payloadBytes := some (pb ++ [b]), frameBytes := some (fb ++ [b]), result := .needMore } →
      exec (.rxByte b) s = .next t ∧ exec (.payMore b) s = .next t)

/-- R109: the payload byte that makes the count equal to the length goes on to the end mark (D6). -/
def Obligations.LastPayloadByteEndsPayload : Prop :=
  (∀ (w : DispatchWord) (p : Bool), selectRow w p = some .payLast ↔ DispatchWord.stateField w = 5#4 ∧ p = true) ∧
  (∀ (s : State) (b : Byte) (fb pb : List Byte) (n : Word16), s.connected = true → s.isIn .awaitPayload →
    s.frameBytes = some fb → s.payloadBytes = some pb → s.len = some n → pb.length + 1 = n.toNat →
    ∀ t, t = { s with payloadBytes := some (pb ++ [b]), frameBytes := some (fb ++ [b]),
                      state := some DState.awaitEndMark.code, result := .needMore } →
      exec (.rxByte b) s = .next t ∧ exec (.payLast b) s = .next t)

/-- R110: the end mark is the last byte the CRC covers. -/
def Obligations.EndMarkFound : Prop :=
  (∀ (w : DispatchWord) (p : Bool), selectRow w p = some .endOk ↔ w = dispatchWord 6#4 Config.ENDMARK) ∧
  (∀ (s : State) (b : Byte) (fb : List Byte), s.connected = true → s.isIn .awaitEndMark → s.frameBytes = some fb →
    b = Config.ENDMARK →
    ∀ t, t = { s with frameBytes := some (fb ++ [b]), state := some DState.awaitCrcHi.code, result := .needMore } →
      exec (.rxByte b) s = .next t ∧ exec .endOk s = .next t)

/-- R111: any other byte abandons the frame, and is consumed even when it is the preamble. -/
def Obligations.WrongEndMarkAbandonsFrame : Prop :=
  (∀ (w : DispatchWord) (p : Bool), selectRow w p = some .endBad ↔
    DispatchWord.stateField w = 6#4 ∧ DispatchWord.byteField w ≠ Config.ENDMARK) ∧
  (∀ (s : State) (b : Byte) (fb : List Byte), s.connected = true → s.isIn .awaitEndMark → s.frameBytes = some fb →
    b ≠ Config.ENDMARK →
    ∀ t, t = { s with frameBytes := some (fb ++ [b]), state := some DState.awaitPreamble.code, result := .needMore } →
      exec (.rxByte b) s = .next t ∧ exec (.endBad b) s = .next t)

/-- R112: the high CRC byte is stored, and is no part of the CRC input. -/
def Obligations.CrcHiByteStored : Prop :=
  (∀ (w : DispatchWord) (p : Bool), selectRow w p = some .crchi ↔ DispatchWord.stateField w = 7#4) ∧
  (∀ (s : State) (b : Byte), s.connected = true → s.isIn .awaitCrcHi →
    ∀ t, t = { s with crcHi := some b, state := some DState.awaitCrcLo.code, result := .needMore } →
      exec (.rxByte b) s = .next t ∧ exec (.crchi b) s = .next t)

/-- R113: the low CRC byte, when all 16 bits agree with the CRC of the buffer, delivers the frame; the payload delivered has the
length the frame declared, and no other row delivers anything. -/
def Obligations.MatchingCrcDeliversFrame : Prop :=
  (∀ (w : DispatchWord) (p : Bool), selectRow w p = some .crcloOk ↔ DispatchWord.stateField w = 8#4 ∧ p = true) ∧
  (∀ (s : State) (b h k c : Byte) (fb pb : List Byte), s.connected = true → s.isIn .awaitCrcLo → s.crcHi = some h →
    s.frameBytes = some fb → s.kind = some k → s.code = some c → s.payloadBytes = some pb → join h b = crc16 fb →
    (BlockInv s → ∃ n, s.len = some n ∧ pb.length = n.toNat) ∧
    ∀ t, t = { s with crcLo := some b, state := some DState.awaitPreamble.code, result := .frameReady k c pb } →
      exec (.rxByte b) s = .next t ∧ exec (.crcloOk b) s = .next t) ∧
  (∀ (row : Row) (b : Byte) (s t : State), row ≠ .crcloOk → exec (row.toInstr b) s = .next t → t.result = .needMore)

/-- R114: the low CRC byte, when any of the 16 bits differs, drops the frame. -/
def Obligations.WrongCrcDropsFrame : Prop :=
  (∀ (w : DispatchWord) (p : Bool), selectRow w p = some .crcloBad ↔ DispatchWord.stateField w = 8#4 ∧ p = false) ∧
  (∀ (s : State) (b h : Byte) (fb : List Byte), s.connected = true → s.isIn .awaitCrcLo → s.crcHi = some h →
    s.frameBytes = some fb → join h b ≠ crc16 fb →
    ∀ t, t = { s with crcLo := some b, state := some DState.awaitPreamble.code, result := .needMore } →
      exec (.rxByte b) s = .next t ∧ exec (.crcloBad b) s = .next t)

/-! ### The host operations -/

/-- R150 with the values of R34: from every state, connected or not, `RESET` leaves the reset values and returns no result. The
initial state, the empty buffers and the field registers without a value are the spec's own decisions D3 and D5. -/
def Obligations.ConnectLeavesResetValues : Prop :=
  ∀ s : State, exec .reset s = .next
    { connected := true, state := some 0#4, kind := none, code := none, lenHi := none, lenLo := none, len := none,
      crcHi := none, crcLo := none, frameBytes := some [], payloadBytes := some [], pending := s.pending, result := .none }

/-- R151 with the values of R34: from every state `DISCONNECT` leaves the block unconnected with no element holding a value
(D22). -/
def Obligations.DisconnectLeavesNoValue : Prop :=
  ∀ s : State, exec .disconnect s = .next
    { connected := false, state := none, kind := none, code := none, lenHi := none, lenLo := none, len := none,
      crcHi := none, crcLo := none, frameBytes := none, payloadBytes := none, pending := s.pending, result := .none }

/-- R34: power-on is the column of no values, and the model's state after reset is what `RESET` makes of power-on (D29; log entry
5). -/
def Obligations.ResetStateIsConnectFromPowerOn : Prop :=
  State.powerOn.connected = false ∧ State.powerOn.discarded ∧ exec .reset State.powerOn = .next State.reset

/-- R47: `RESET` twice is `RESET` once, and `DISCONNECT` twice is `DISCONNECT` once. -/
def Obligations.LifecycleIsIdempotent : Prop :=
  ∀ s : State,
    (∃ t, exec .reset s = .next t ∧ exec .reset t = .next t) ∧
    (∃ t, exec .disconnect s = .next t ∧ exec .disconnect t = .next t)

/-- R60: on a connected block `TX_FRAME` of a payload within the bound returns the wire frame, byte by byte at the offsets of the
rule's table, and changes no element. -/
def Obligations.TxFrameHasWireLayout : Prop :=
  ∀ (s : State) (k c : Byte) (p : List Byte), s.connected = true → p.length ≤ Config.MAX_PAYLOAD →
    ∃ w : List Byte,
      exec (.txFrame k c p) s = .next { s with result := .bytes w } ∧
      w.length = 8 + p.length ∧
      w[0]? = some Config.PREAMBLE ∧ w[1]? = some k ∧ w[2]? = some c ∧
      w[3]? = some (hiByte (BitVec.ofNat 16 p.length)) ∧ w[4]? = some (loByte (BitVec.ofNat 16 p.length)) ∧
      (∀ j, j < p.length → w[5 + j]? = p[j]?) ∧
      w[5 + p.length]? = some Config.ENDMARK ∧
      w[6 + p.length]? = some (hiByte (crc16 ((w.drop 1).take (5 + p.length)))) ∧
      w[7 + p.length]? = some (loByte (crc16 ((w.drop 1).take (5 + p.length))))

/-- R131: the three refusals, each under its own condition. The `connected` bit and the refusals are the spec's own decisions D9,
D11 and D22; the mark of an overlapping operation is this model's (log entry 4). -/
def Obligations.ContractViolationsRefused : Prop :=
  (∀ (s : State) (b : Byte), s.connected = false → exec (.rxByte b) s = .refused .notConnected) ∧
  (∀ (s : State) (k c : Byte) (p : List Byte), s.connected = false →
    exec (.txFrame k c p) s = .refused .notConnected) ∧
  (∀ (s : State) (k c : Byte) (p : List Byte), s.connected = true → 65535 < p.length →
    exec (.txFrame k c p) s = .refused .payloadTooLong) ∧
  (∀ (s : State) (i : Issue) (rest : List Issue), s.pending = i :: rest → i.overlaps = true →
    step s = .refused .interleaved)

/-- R132: a state code from 9 to 15 faults every `RX_BYTE` (D2). -/
def Obligations.UnusedStateCodeFaults : Prop :=
  ∀ (s : State) (b : Byte) (c : StateCode), s.connected = true → s.state = some c → 9 ≤ c.toNat →
    exec (.rxByte b) s = .fault .illegalState

/-- R34: an `RX_BYTE` that would read an element holding no value faults and names it (D5). The clauses take the decoder states
one by one, and in each the elements it reads in the order the model reads them; that order, and so which of several the fault
names, is the model's own (log entries 6 and 14). In the other states nothing but the state register is read. -/
def Obligations.ReadWithoutValueFaults : Prop :=
  ∀ (s : State) (b : Byte), s.connected = true →
    (s.state = none → exec (.rxByte b) s = .fault (.noValue .state)) ∧
    (s.isIn .awaitCode ∨ s.isIn .awaitLenHi ∨ s.isIn .awaitEndMark → s.frameBytes = none →
      exec (.rxByte b) s = .fault (.noValue .frameBytes)) ∧
    (s.isIn .awaitLenLo →
      (s.lenHi = none → exec (.rxByte b) s = .fault (.noValue .lenHi)) ∧
      (s.lenHi ≠ none → s.frameBytes = none → exec (.rxByte b) s = .fault (.noValue .frameBytes))) ∧
    (s.isIn .awaitPayload →
      (s.payloadBytes = none → exec (.rxByte b) s = .fault (.noValue .payloadBytes)) ∧
      (s.payloadBytes ≠ none → s.len = none → exec (.rxByte b) s = .fault (.noValue .len)) ∧
      (s.payloadBytes ≠ none → s.len ≠ none → s.frameBytes = none →
        exec (.rxByte b) s = .fault (.noValue .frameBytes))) ∧
    (s.isIn .awaitCrcLo →
      (s.crcHi = none → exec (.rxByte b) s = .fault (.noValue .crcHi)) ∧
      (s.crcHi ≠ none → s.frameBytes = none → exec (.rxByte b) s = .fault (.noValue .frameBytes)) ∧
      (∀ (h : Byte) (fb : List Byte), s.crcHi = some h → s.frameBytes = some fb → join h b = crc16 fb →
        (s.kind = none → exec (.rxByte b) s = .fault (.noValue .kind)) ∧
        (s.kind ≠ none → s.code = none → exec (.rxByte b) s = .fault (.noValue .code)) ∧
        (s.kind ≠ none → s.code ≠ none → s.payloadBytes = none →
          exec (.rxByte b) s = .fault (.noValue .payloadBytes))))

/-! ### The CRC engine -/

/-- R90: `CRC_STEP` in numbers. The byte is XORed in at weight 256; then, eight times, the value is doubled modulo 2^16 and the
polynomial XORed in when the old value was at least 2^15. -/
def Obligations.CrcStepInNumbers : Prop :=
  ∀ (r : Word16) (b : Byte),
    (crcStep r b).toNat =
      (fun x : Nat => if 2 ^ 15 ≤ x then (2 * x) % 2 ^ 16 ^^^ Config.CRC_POLY.toNat else (2 * x) % 2 ^ 16)^[8]
        (r.toNat ^^^ b.toNat * 256)

/-- R91: `CRC16` starts at the initial value and takes one `CRC_STEP` for each byte, index 0 first, with no final XOR. -/
def Obligations.CrcOfSequence : Prop :=
  crc16 [] = 0xFFFF#16 ∧ ∀ (s : List Byte) (b : Byte), crc16 (s ++ [b]) = crcStep (crc16 s) b

/-- R94: `CRC_STEP` is linear over GF(2) in its two arguments together. -/
def Obligations.CrcStepIsLinear : Prop :=
  ∀ (r₁ r₂ : Word16) (b₁ b₂ : Byte), crcStep (r₁ ^^^ r₂) (b₁ ^^^ b₂) = crcStep r₁ b₁ ^^^ crcStep r₂ b₂

/-- R96: a sequence followed by its own CRC, high byte first, has CRC 0; so has every frame after its preamble (R84). -/
def Obligations.CrcResidueIsZero : Prop :=
  (∀ s : List Byte, crc16 (s ++ [hiByte (crc16 s), loByte (crc16 s)]) = 0#16) ∧
  (∀ (k c : Byte) (p : List Byte), crc16 ((encodeFrame k c p).drop 1) = 0#16)

/-- R61: the length is assembled high byte first, and is the number `256 * hi + lo`. -/
def Obligations.LengthAssembly : Prop :=
  ∀ h l : Byte, join h l = (h.setWidth 16 <<< 8) ||| l.setWidth 16 ∧ (join h l).toNat = 256 * h.toNat + l.toNat

/-! ### Frames, invariants and whole-machine rules -/

/-- The frame of every instruction (R20, column "written by"): an element the rule's table does not let it write keeps its value,
and no instruction touches what the host has issued. -/
def Obligations.UnwrittenElementsKept : Prop :=
  ∀ (i : Instr) (s t : State), exec i s = .next t →
    t.pending = s.pending ∧ ∀ e : Element, e ∉ writes i → e.same s t

/-- The invariant of R28, R34 and R41 holds at power-on and after `RESET`. -/
def Obligations.InvariantAtStart : Prop := BlockInv State.powerOn ∧ BlockInv State.reset

/-- Every step keeps the invariant: the row of R28 of the decoder state, the bounds of R41, a legal state code, and no values
outside a connection. -/
def Obligations.StepKeepsInvariant : Prop :=
  ∀ s t : State, BlockInv s → step s = .next t → BlockInv t

/-- R116: under the invariant every `RX_BYTE` on a connected block completes, and returns `NeedMore` or `FrameReady`. -/
def Obligations.ReceiveNeverStops : Prop :=
  ∀ (s : State) (b : Byte), BlockInv s → s.connected = true →
    ∃ t, exec (.rxByte b) s = .next t ∧ (t.result = .needMore ∨ ∃ k c p, t.result = .frameReady k c p)

/-- R132 and R34: under the invariant no step faults, whatever the host issues. -/
def Obligations.NoFaultUnderInvariant : Prop :=
  ∀ (s : State) (f : Fault), BlockInv s → step s ≠ .fault f

/-- Only a byte that completes a matching CRC in `AwaitCrcLo` makes a step return `FrameReady`, with the block's own kind, code
and payload, and the step ends in `AwaitPreamble` (R113, R122). -/
def Obligations.OnlyCheckedFramesDelivered : Prop :=
  ∀ (s t : State) (k c : Byte) (p : List Byte), step s = .next t → t.result = .frameReady k c p →
    s.connected = true ∧ s.isIn .awaitCrcLo ∧ t.isIn .awaitPreamble ∧
    s.kind = some k ∧ s.code = some c ∧ s.payloadBytes = some p ∧
    ∃ i rest h fb, s.pending = i :: rest ∧ decodeHost i.word = .rxByte i.word.b ∧ s.crcHi = some h ∧
      s.frameBytes = some fb ∧ join h i.word.b = crc16 fb

/-- Under the invariant, the bytes a delivered frame was made of are exactly the frame the generator builds from the delivered
kind, code and payload (R28, R62, R93). -/
def Obligations.DeliveredBytesAreEncoded : Prop :=
  ∀ (s t : State) (b k c : Byte) (p : List Byte), BlockInv s → exec (.rxByte b) s = .next t → t.result = .frameReady k c p →
    p.length ≤ Config.MAX_PAYLOAD ∧
    ∃ h fb, s.crcHi = some h ∧ s.frameBytes = some fb ∧ [Config.PREAMBLE] ++ fb ++ [h, b] = encodeFrame k c p

/-- R117 and R118: from `AwaitPreamble`, the bytes of an encoded frame give `NeedMore` for bytes 0 to `6+L` and `FrameReady` with
the same kind, code and payload for byte `7+L`, and leave the decoder in `AwaitPreamble`. -/
def Obligations.EncodedFrameDecodes : Prop :=
  ∀ (s : State) (k c : Byte) (p : List Byte), s.connected = true → s.isIn .awaitPreamble →
    p.length ≤ Config.MAX_PAYLOAD →
    ∃ t, receive (encodeFrame k c p) s =
        some (List.replicate (7 + p.length) .needMore ++ [.frameReady k c p], t) ∧
      t.connected = true ∧ t.isIn .awaitPreamble

/-- R119: an encoded frame whose two CRC bytes are changed gives `NeedMore` for every byte and leaves the decoder in
`AwaitPreamble`. -/
def Obligations.CorruptCrcDropped : Prop :=
  ∀ (s : State) (k c h l : Byte) (p : List Byte), s.connected = true → s.isIn .awaitPreamble →
    p.length ≤ Config.MAX_PAYLOAD →
    (h, l) ≠ (hiByte (crc16 (frameBody k c p)), loByte (crc16 (frameBody k c p))) →
    ∃ t, receive ([Config.PREAMBLE] ++ frameBody k c p ++ [h, l]) s =
        some (List.replicate (8 + p.length) .needMore, t) ∧
      t.connected = true ∧ t.isIn .awaitPreamble

/-- R115: in `AwaitPreamble` the results of all later bytes depend on those bytes alone, and not on anything the block has
consumed or still holds. -/
def Obligations.NoRescanOfConsumedBytes : Prop :=
  ∀ (s₁ s₂ : State) (bs : List Byte), s₁.connected = true → s₂.connected = true → s₁.isIn .awaitPreamble →
    s₂.isIn .awaitPreamble →
    ∃ rs t₁ t₂, receive bs s₁ = some (rs, t₁) ∧ receive bs s₂ = some (rs, t₂)

/-- R115, as a step: an `RX_BYTE` keeps two blocks alike and returns the same result from both, so what only one of them has
consumed or still holds outside its live elements reaches no later result. Which elements are live is read from R103 to R114. -/
def Obligations.ReceiveKeepsBlocksAlike : Prop :=
  ∀ (s₁ s₂ t₁ : State) (b : Byte), s₁.alike s₂ → exec (.rxByte b) s₁ = .next t₁ →
    ∃ t₂, exec (.rxByte b) s₂ = .next t₂ ∧ t₂.result = t₁.result ∧ t₁.alike t₂

/-- R50: `TX_FRAME` operations mixed into a stream of received bytes change neither the results nor the state of the stream, and
each returns the frame of its own operands (D25). -/
def Obligations.TransmitAndReceiveIndependent : Prop :=
  ∀ (s : State) (ws : List HostWord), BlockInv s → s.connected = true → (∀ w ∈ ws, w.isTraffic = true) →
    ∃ rs t rs' t', runOps ws s = some (rs, t) ∧ runOps (ws.filter HostWord.isRx) s = some (rs', t') ∧
      rs.filter OpResult.isRx = rs' ∧
      rs.filter (fun r => !r.isRx) =
        (ws.filter fun w => !w.isRx).map (fun w => .bytes (encodeFrame w.kind w.code w.payload)) ∧
      t.sameBlock t'

/-- R82, R108 and R155: bytes that arrive before the payload is complete are payload, whatever they are: no preamble or end mark
is looked for. -/
def Obligations.PayloadBytesAreData : Prop :=
  ∀ (s : State) (bs fb pb : List Byte) (n : Word16), s.connected = true → s.isIn .awaitPayload →
    s.frameBytes = some fb → s.payloadBytes = some pb → s.len = some n → pb.length + bs.length < n.toNat →
    ∃ t, receive bs s = some (List.replicate bs.length .needMore, t) ∧
      t.sameBlock { s with payloadBytes := some (pb ++ bs), frameBytes := some (fb ++ bs) }

/-- R121: through any number of bytes between frames, and the preamble that ends them, the delivered kind, code and payload stay
in their elements, and nothing more is delivered. -/
def Obligations.OutputHeldUntilNextType : Prop :=
  ∀ (s : State) (bs : List Byte), s.connected = true → s.isIn .awaitPreamble → Config.PREAMBLE ∉ bs →
    ∃ t, receive (bs ++ [Config.PREAMBLE]) s = some (List.replicate (bs.length + 1) .needMore, t) ∧
      t.sameBlock { s with state := some DState.awaitType.code }

/-- R33: whatever operations ran before a `RESET`, the results and the state from there on are those of the same operations on a
block just powered on. -/
def Obligations.RunFromResetForgetsPast : Prop :=
  ∀ (s t : State) (before after : List HostWord) (rs : List OpResult), runOps before s = some (rs, t) →
    runOps (before ++ .connect :: after) s =
      (runOps (.connect :: after) State.powerOn).map fun x => (rs ++ x.1, x.2)

/-- R95: a design that keeps a running CRC register in place of the buffer follows the block byte for byte: the same results, the
same elements, the same stops. That a read of the missing register stops with the fault that names the missing buffer is log entry
19 (DEDUCED); R95 speaks of results only. -/
def Obligations.RunningCrcFollowsBuffer : Prop :=
  ∀ (s : State) (r : Running) (b : Byte), r.follows s → Running.agrees (rxByteAcc b r) (exec (.rxByte b) s)

/-- R139: a step of one connection's block is that block's own step, and no other block changes. The list of blocks, and that it has
no next state where that block's step stops, are the model's (log entry 17). -/
def Obligations.InstancesAreIndependent : Prop :=
  ∀ (blocks blocks' : List State) (n : Nat), stepInstance n blocks = .next blocks' →
    blocks'.length = blocks.length ∧
    (∀ m, m ≠ n → blocks'[m]? = blocks[m]?) ∧
    (∀ s, blocks[n]? = some s → ∃ t, step s = .next t ∧ blocks'[n]? = some t)

/-- R73: `RXF` stands for the bytes of the encoded frame, and `RXF!` for the same bytes with the mask XORed into the last one (the
notation is the spec's own, D23). -/
def Obligations.FramePseudoOperationsExpand : Prop :=
  ∀ (k c m : Byte) (p : List Byte), p.length ≤ Config.MAX_PAYLOAD → m ≠ 0#8 →
    (AsmLine.rxf k c p).expand = some ((encodeFrame k c p).map .rx) ∧
    (AsmLine.rxfBad k c p m).expand =
      some (([Config.PREAMBLE] ++ frameBody k c p ++
        [hiByte (crc16 (frameBody k c p)), loByte (crc16 (frameBody k c p)) ^^^ m]).map .rx)
end

