-- ==== Sys2Proof/Laws/Crc.lean ====
section
/-!
SUPPORT. Byte fields and their assembly, and the CRC engine in the forms proofs use: the reflection switch out of the way, and the
fold over a sequence split.
-/

namespace Sys2Proof.Machine

@[simp] theorem hiByte_join (h l : Byte) : hiByte (join h l) = h := by
  unfold hiByte join
  apply BitVec.eq_of_toNat_eq
  simp only [BitVec.extractLsb'_toNat, BitVec.toNat_append]
  have := h.isLt; have := l.isLt
  rw [← Nat.shiftLeft_add_eq_or_of_lt l.isLt, Nat.shiftRight_eq_div_pow, Nat.shiftLeft_eq]
  omega

@[simp] theorem loByte_join (h l : Byte) : loByte (join h l) = l := by
  unfold loByte join
  apply BitVec.eq_of_toNat_eq
  simp only [BitVec.extractLsb'_toNat, BitVec.toNat_append]
  have := h.isLt; have := l.isLt
  rw [← Nat.shiftLeft_add_eq_or_of_lt l.isLt, Nat.shiftRight_eq_div_pow, Nat.shiftLeft_eq]
  omega

/-- A 16-bit value is its two bytes, high byte first. -/
@[simp] theorem join_hi_lo (w : Word16) : join (hiByte w) (loByte w) = w := by
  unfold hiByte loByte join
  apply BitVec.eq_of_toNat_eq
  have := w.isLt
  have hb := (BitVec.extractLsb' 0 8 w).isLt
  simp only [BitVec.toNat_append]
  rw [← Nat.shiftLeft_add_eq_or_of_lt hb]
  simp only [BitVec.extractLsb'_toNat, Nat.shiftRight_eq_div_pow, Nat.shiftLeft_eq]
  omega

theorem join_inj {h h' l l' : Byte} : join h l = join h' l' ↔ h = h' ∧ l = l' := by
  refine ⟨fun e => ⟨?_, ?_⟩, fun ⟨e, e'⟩ => by rw [e, e']⟩
  · simpa using congrArg hiByte e
  · simpa using congrArg loByte e

/-- The number a length field stands for. -/
theorem lenField_toNat {p : List Byte} (h : p.length ≤ Config.MAX_PAYLOAD) : (lenField p).toNat = p.length := by
  simp only [Config.MAX_PAYLOAD] at h
  simp only [lenField, BitVec.toNat_ofNat]
  omega

@[simp] theorem crcIn_eq (b : Byte) : crcIn b = b := rfl
@[simp] theorem crcOut_eq (r : Word16) : crcOut r = r := rfl

/-- With no final XOR, `CRC16` is the register after the sequence. -/
theorem crc16_eq_crcFold (s : List Byte) : crc16 s = crcFold Config.CRC_INIT s := by
  simp [crc16, Config.CRC_XOROUT]

@[simp] theorem crcFold_nil (r : Word16) : crcFold r [] = r := rfl
@[simp] theorem crcFold_cons (r : Word16) (b : Byte) (s : List Byte) : crcFold r (b :: s) = crcFold (crcStep r b) s := rfl

theorem crcFold_append (r : Word16) (s t : List Byte) : crcFold r (s ++ t) = crcFold (crcFold r s) t := by
  simp [crcFold]

end Sys2Proof.Machine
end

