-- ==== Sys2Proof/Laws/Decode.lean ====
section
/-!
SUPPORT. The dispatch word and the row it selects: the fields of a word, when a row of each form applies, the rows that apply and
the row selected in each decoder state.
-/

namespace Sys2Proof

/-- The state mask keeps the state and clears the byte. -/
theorem and_maskState (c : StateCode) (b : Byte) : dispatchWord c b &&& maskState = dispatchWord c 0#8 := by
  have hm : maskState = dispatchWord (BitVec.allOnes 4) 0#8 := by decide
  rw [hm]
  apply BitVec.eq_of_getLsbD_eq
  intro i hi
  unfold dispatchWord
  simp only [BitVec.getLsbD_and, BitVec.getLsbD_append]
  by_cases h : i < 8
  · simp [h]
  · have h4 : i - 8 < 4 := by omega
    simp only [h, if_false, BitVec.getLsbD_allOnes, h4, decide_true, Bool.and_true]

/-- The full mask keeps the word. -/
theorem and_maskFull (w : DispatchWord) : w &&& maskFull = w := by
  have : maskFull = BitVec.allOnes 12 := by decide
  rw [this, BitVec.and_allOnes]

@[simp] theorem stateField_dispatchWord (c : StateCode) (b : Byte) :
    DispatchWord.stateField (dispatchWord c b) = c := by
  unfold DispatchWord.stateField dispatchWord
  apply BitVec.eq_of_toNat_eq
  simp only [BitVec.extractLsb'_toNat, BitVec.toNat_append]
  have := b.isLt; have := c.isLt
  rw [← Nat.shiftLeft_add_eq_or_of_lt b.isLt, Nat.shiftRight_eq_div_pow, Nat.shiftLeft_eq]
  omega

@[simp] theorem byteField_dispatchWord (c : StateCode) (b : Byte) :
    DispatchWord.byteField (dispatchWord c b) = b := by
  unfold DispatchWord.byteField dispatchWord
  apply BitVec.eq_of_toNat_eq
  simp only [BitVec.extractLsb'_toNat, BitVec.toNat_append]
  have := b.isLt; have := c.isLt
  rw [← Nat.shiftLeft_add_eq_or_of_lt b.isLt, Nat.shiftRight_eq_div_pow, Nat.shiftLeft_eq]
  omega

/-- A dispatch word determines its fields. -/
theorem dispatchWord_inj {c c' : StateCode} {b b' : Byte} : dispatchWord c b = dispatchWord c' b' ↔ c = c' ∧ b = b' := by
  refine ⟨fun h => ⟨?_, ?_⟩, fun ⟨h, h'⟩ => by rw [h, h']⟩
  · simpa using congrArg DispatchWord.stateField h
  · simpa using congrArg DispatchWord.byteField h

@[simp] theorem anyByte_applies (row : Row) (d : DState) (cond : Cond) (n : Nat) (c : StateCode) (b : Byte) (p : Bool) :
    (anyByte row d cond n).applies (dispatchWord c b) p = (decide (c = d.code) && cond.met p) := by
  unfold RowEntry.applies anyByte
  simp only [and_maskState, Bool.beq_eq_decide_eq, dispatchWord_inj, and_true]

@[simp] theorem oneByte_applies (row : Row) (d : DState) (a : Byte) (c : StateCode) (b : Byte) (p : Bool) :
    (oneByte row d a).applies (dispatchWord c b) p = (decide (c = d.code) && decide (b = a)) := by
  unfold RowEntry.applies oneByte
  simp only [and_maskFull, Bool.beq_eq_decide_eq, dispatchWord_inj, Cond.met, Bool.and_true, Bool.decide_and]

/-- Different decoder states have different codes. -/
theorem DState.code_inj {d e : DState} : d.code = e.code ↔ d = e := by cases d <;> cases e <;> decide

@[simp] theorem anyByte_row (row : Row) (d : DState) (cond : Cond) (n : Nat) : (anyByte row d cond n).row = row := rfl
@[simp] theorem anyByte_priority (row : Row) (d : DState) (cond : Cond) (n : Nat) : (anyByte row d cond n).priority = n := rfl
@[simp] theorem oneByte_row (row : Row) (d : DState) (b : Byte) : (oneByte row d b).row = row := rfl
@[simp] theorem oneByte_priority (row : Row) (d : DState) (b : Byte) : (oneByte row d b).priority = 0 := rfl

/-- The rows that apply in decoder state `d`, with the table's conditions already decided. -/
theorem hits_of_code (d : DState) (b : Byte) (p : Bool) :
    hits (dispatchWord d.code b) p = match d with
      | .awaitPreamble => (if b = Config.PREAMBLE then [oneByte .preMatch .awaitPreamble Config.PREAMBLE] else []) ++
          [anyByte .preSkip .awaitPreamble .always 1]
      | .awaitType => [anyByte .type .awaitType .always 0]
      | .awaitCode => [anyByte .code .awaitCode .always 0]
      | .awaitLenHi => [anyByte .lenhi .awaitLenHi .always 0]
      | .awaitLenLo => [if p then anyByte .lenloZero .awaitLenLo .holds 0 else anyByte .lenloNz .awaitLenLo .fails 0]
      | .awaitPayload => [if p then anyByte .payLast .awaitPayload .holds 0 else anyByte .payMore .awaitPayload .fails 0]
      | .awaitEndMark => (if b = Config.ENDMARK then [oneByte .endOk .awaitEndMark Config.ENDMARK] else []) ++
          [anyByte .endBad .awaitEndMark .always 1]
      | .awaitCrcHi => [anyByte .crchi .awaitCrcHi .always 0]
      | .awaitCrcLo => [if p then anyByte .crcloOk .awaitCrcLo .holds 0 else anyByte .crcloBad .awaitCrcLo .fails 0] := by
  cases d <;> cases p <;> simp [hits, rxTable, DState.code_inj, List.filter_cons, Cond.met] <;> split <;> simp_all

/-- No row applies to a state code above the last one. -/
theorem hits_of_lastCode_lt {c : StateCode} (h : DState.lastCode < c) (b : Byte) (p : Bool) :
    hits (dispatchWord c b) p = [] := by
  have hn : ∀ d : DState, c ≠ d.code := by
    rintro d rfl; revert h; cases d <;> decide
  simp [hits, rxTable, hn]

/-- The row selected in decoder state `d`. -/
theorem selectRow_of_code (d : DState) (b : Byte) (p : Bool) :
    selectRow (dispatchWord d.code b) p = some (match d with
      | .awaitPreamble => if b = Config.PREAMBLE then .preMatch else .preSkip
      | .awaitType => .type
      | .awaitCode => .code
      | .awaitLenHi => .lenhi
      | .awaitLenLo => if p then .lenloZero else .lenloNz
      | .awaitPayload => if p then .payLast else .payMore
      | .awaitEndMark => if b = Config.ENDMARK then .endOk else .endBad
      | .awaitCrcHi => .crchi
      | .awaitCrcLo => if p then .crcloOk else .crcloBad) := by
  unfold selectRow
  rw [hits_of_code]
  cases d <;> dsimp only <;> first | rfl | (split <;> simp)

theorem selectRow_of_lastCode_lt {c : StateCode} (h : DState.lastCode < c) (b : Byte) (p : Bool) :
    selectRow (dispatchWord c b) p = none := by simp [selectRow, hits_of_lastCode_lt h]

/-- A state code is one of the nine, or above the last one. -/
theorem stateCode_cases (c : StateCode) : (∃ d : DState, c = d.code) ∨ DState.lastCode < c := by
  have h : ∀ c : StateCode, c = DState.awaitPreamble.code ∨ c = DState.awaitType.code ∨ c = DState.awaitCode.code ∨
      c = DState.awaitLenHi.code ∨ c = DState.awaitLenLo.code ∨ c = DState.awaitPayload.code ∨
      c = DState.awaitEndMark.code ∨ c = DState.awaitCrcHi.code ∨ c = DState.awaitCrcLo.code ∨ DState.lastCode < c := by
    decide
  rcases h c with h | h | h | h | h | h | h | h | h | h
  all_goals first | exact .inl ⟨_, h⟩ | exact .inr h

@[simp] theorem not_lastCode_lt (d : DState) : ¬ DState.lastCode < d.code := by cases d <;> decide

/-- A dispatch word is its two fields. -/
theorem dispatchWord_fields (w : DispatchWord) :
    dispatchWord (DispatchWord.stateField w) (DispatchWord.byteField w) = w := by
  unfold DispatchWord.stateField DispatchWord.byteField dispatchWord
  apply BitVec.eq_of_toNat_eq
  have := w.isLt
  have hb := (BitVec.extractLsb' 0 8 w).isLt
  simp only [BitVec.toNat_append]
  rw [← Nat.shiftLeft_add_eq_or_of_lt hb]
  simp only [BitVec.extractLsb'_toNat, Nat.shiftRight_eq_div_pow, Nat.shiftLeft_eq]
  omega

section decodeHost
variable (b k c : Byte) (p : List Byte)

@[simp] theorem decodeHost_rx : decodeHost (.rx b) = .rxByte b := rfl
@[simp] theorem decodeHost_connect : decodeHost .connect = .reset := rfl
@[simp] theorem decodeHost_tx : decodeHost (.tx k c p) = .txFrame k c p := rfl
@[simp] theorem decodeHost_disconnect : decodeHost .disconnect = .disconnect := rfl

end decodeHost

end Sys2Proof
end

