-- ==== Sys2Proof/Laws/State.lean ====
section
/-!
SUPPORT. One lemma per field per update of the state, each by `rfl`, so that no later proof unfolds a record update; and the
extensionality lemma of the state.
-/

namespace Sys2Proof.Machine.State

section goto
variable (d : DState) (s : State)
@[simp] theorem goto_connected : (s.goto d).connected = s.connected := rfl
@[simp] theorem goto_state : (s.goto d).state = some d.code := rfl
@[simp] theorem goto_kind : (s.goto d).kind = s.kind := rfl
@[simp] theorem goto_code : (s.goto d).code = s.code := rfl
@[simp] theorem goto_lenHi : (s.goto d).lenHi = s.lenHi := rfl
@[simp] theorem goto_lenLo : (s.goto d).lenLo = s.lenLo := rfl
@[simp] theorem goto_len : (s.goto d).len = s.len := rfl
@[simp] theorem goto_crcHi : (s.goto d).crcHi = s.crcHi := rfl
@[simp] theorem goto_crcLo : (s.goto d).crcLo = s.crcLo := rfl
@[simp] theorem goto_frameBytes : (s.goto d).frameBytes = s.frameBytes := rfl
@[simp] theorem goto_payloadBytes : (s.goto d).payloadBytes = s.payloadBytes := rfl
@[simp] theorem goto_pending : (s.goto d).pending = s.pending := rfl
@[simp] theorem goto_result : (s.goto d).result = s.result := rfl
end goto

section ret
variable (r : OpResult) (s : State)
@[simp] theorem ret_connected : (s.ret r).connected = s.connected := rfl
@[simp] theorem ret_state : (s.ret r).state = s.state := rfl
@[simp] theorem ret_kind : (s.ret r).kind = s.kind := rfl
@[simp] theorem ret_code : (s.ret r).code = s.code := rfl
@[simp] theorem ret_lenHi : (s.ret r).lenHi = s.lenHi := rfl
@[simp] theorem ret_lenLo : (s.ret r).lenLo = s.lenLo := rfl
@[simp] theorem ret_len : (s.ret r).len = s.len := rfl
@[simp] theorem ret_crcHi : (s.ret r).crcHi = s.crcHi := rfl
@[simp] theorem ret_crcLo : (s.ret r).crcLo = s.crcLo := rfl
@[simp] theorem ret_frameBytes : (s.ret r).frameBytes = s.frameBytes := rfl
@[simp] theorem ret_payloadBytes : (s.ret r).payloadBytes = s.payloadBytes := rfl
@[simp] theorem ret_pending : (s.ret r).pending = s.pending := rfl
@[simp] theorem ret_result : (s.ret r).result = r := rfl
end ret

section setKind
variable (b : Byte) (s : State)
@[simp] theorem setKind_connected : (s.setKind b).connected = s.connected := rfl
@[simp] theorem setKind_state : (s.setKind b).state = s.state := rfl
@[simp] theorem setKind_kind : (s.setKind b).kind = some b := rfl
@[simp] theorem setKind_code : (s.setKind b).code = s.code := rfl
@[simp] theorem setKind_lenHi : (s.setKind b).lenHi = s.lenHi := rfl
@[simp] theorem setKind_lenLo : (s.setKind b).lenLo = s.lenLo := rfl
@[simp] theorem setKind_len : (s.setKind b).len = s.len := rfl
@[simp] theorem setKind_crcHi : (s.setKind b).crcHi = s.crcHi := rfl
@[simp] theorem setKind_crcLo : (s.setKind b).crcLo = s.crcLo := rfl
@[simp] theorem setKind_frameBytes : (s.setKind b).frameBytes = s.frameBytes := rfl
@[simp] theorem setKind_payloadBytes : (s.setKind b).payloadBytes = s.payloadBytes := rfl
@[simp] theorem setKind_pending : (s.setKind b).pending = s.pending := rfl
@[simp] theorem setKind_result : (s.setKind b).result = s.result := rfl
end setKind

section setCode
variable (b : Byte) (s : State)
@[simp] theorem setCode_connected : (s.setCode b).connected = s.connected := rfl
@[simp] theorem setCode_state : (s.setCode b).state = s.state := rfl
@[simp] theorem setCode_kind : (s.setCode b).kind = s.kind := rfl
@[simp] theorem setCode_code : (s.setCode b).code = some b := rfl
@[simp] theorem setCode_lenHi : (s.setCode b).lenHi = s.lenHi := rfl
@[simp] theorem setCode_lenLo : (s.setCode b).lenLo = s.lenLo := rfl
@[simp] theorem setCode_len : (s.setCode b).len = s.len := rfl
@[simp] theorem setCode_crcHi : (s.setCode b).crcHi = s.crcHi := rfl
@[simp] theorem setCode_crcLo : (s.setCode b).crcLo = s.crcLo := rfl
@[simp] theorem setCode_frameBytes : (s.setCode b).frameBytes = s.frameBytes := rfl
@[simp] theorem setCode_payloadBytes : (s.setCode b).payloadBytes = s.payloadBytes := rfl
@[simp] theorem setCode_pending : (s.setCode b).pending = s.pending := rfl
@[simp] theorem setCode_result : (s.setCode b).result = s.result := rfl
end setCode

section setLenHi
variable (b : Byte) (s : State)
@[simp] theorem setLenHi_connected : (s.setLenHi b).connected = s.connected := rfl
@[simp] theorem setLenHi_state : (s.setLenHi b).state = s.state := rfl
@[simp] theorem setLenHi_kind : (s.setLenHi b).kind = s.kind := rfl
@[simp] theorem setLenHi_code : (s.setLenHi b).code = s.code := rfl
@[simp] theorem setLenHi_lenHi : (s.setLenHi b).lenHi = some b := rfl
@[simp] theorem setLenHi_lenLo : (s.setLenHi b).lenLo = s.lenLo := rfl
@[simp] theorem setLenHi_len : (s.setLenHi b).len = s.len := rfl
@[simp] theorem setLenHi_crcHi : (s.setLenHi b).crcHi = s.crcHi := rfl
@[simp] theorem setLenHi_crcLo : (s.setLenHi b).crcLo = s.crcLo := rfl
@[simp] theorem setLenHi_frameBytes : (s.setLenHi b).frameBytes = s.frameBytes := rfl
@[simp] theorem setLenHi_payloadBytes : (s.setLenHi b).payloadBytes = s.payloadBytes := rfl
@[simp] theorem setLenHi_pending : (s.setLenHi b).pending = s.pending := rfl
@[simp] theorem setLenHi_result : (s.setLenHi b).result = s.result := rfl
end setLenHi

section setLenLo
variable (b : Byte) (s : State)
@[simp] theorem setLenLo_connected : (s.setLenLo b).connected = s.connected := rfl
@[simp] theorem setLenLo_state : (s.setLenLo b).state = s.state := rfl
@[simp] theorem setLenLo_kind : (s.setLenLo b).kind = s.kind := rfl
@[simp] theorem setLenLo_code : (s.setLenLo b).code = s.code := rfl
@[simp] theorem setLenLo_lenHi : (s.setLenLo b).lenHi = s.lenHi := rfl
@[simp] theorem setLenLo_lenLo : (s.setLenLo b).lenLo = some b := rfl
@[simp] theorem setLenLo_len : (s.setLenLo b).len = s.len := rfl
@[simp] theorem setLenLo_crcHi : (s.setLenLo b).crcHi = s.crcHi := rfl
@[simp] theorem setLenLo_crcLo : (s.setLenLo b).crcLo = s.crcLo := rfl
@[simp] theorem setLenLo_frameBytes : (s.setLenLo b).frameBytes = s.frameBytes := rfl
@[simp] theorem setLenLo_payloadBytes : (s.setLenLo b).payloadBytes = s.payloadBytes := rfl
@[simp] theorem setLenLo_pending : (s.setLenLo b).pending = s.pending := rfl
@[simp] theorem setLenLo_result : (s.setLenLo b).result = s.result := rfl
end setLenLo

section setLen
variable (w : Word16) (s : State)
@[simp] theorem setLen_connected : (s.setLen w).connected = s.connected := rfl
@[simp] theorem setLen_state : (s.setLen w).state = s.state := rfl
@[simp] theorem setLen_kind : (s.setLen w).kind = s.kind := rfl
@[simp] theorem setLen_code : (s.setLen w).code = s.code := rfl
@[simp] theorem setLen_lenHi : (s.setLen w).lenHi = s.lenHi := rfl
@[simp] theorem setLen_lenLo : (s.setLen w).lenLo = s.lenLo := rfl
@[simp] theorem setLen_len : (s.setLen w).len = some w := rfl
@[simp] theorem setLen_crcHi : (s.setLen w).crcHi = s.crcHi := rfl
@[simp] theorem setLen_crcLo : (s.setLen w).crcLo = s.crcLo := rfl
@[simp] theorem setLen_frameBytes : (s.setLen w).frameBytes = s.frameBytes := rfl
@[simp] theorem setLen_payloadBytes : (s.setLen w).payloadBytes = s.payloadBytes := rfl
@[simp] theorem setLen_pending : (s.setLen w).pending = s.pending := rfl
@[simp] theorem setLen_result : (s.setLen w).result = s.result := rfl
end setLen

section setCrcHi
variable (b : Byte) (s : State)
@[simp] theorem setCrcHi_connected : (s.setCrcHi b).connected = s.connected := rfl
@[simp] theorem setCrcHi_state : (s.setCrcHi b).state = s.state := rfl
@[simp] theorem setCrcHi_kind : (s.setCrcHi b).kind = s.kind := rfl
@[simp] theorem setCrcHi_code : (s.setCrcHi b).code = s.code := rfl
@[simp] theorem setCrcHi_lenHi : (s.setCrcHi b).lenHi = s.lenHi := rfl
@[simp] theorem setCrcHi_lenLo : (s.setCrcHi b).lenLo = s.lenLo := rfl
@[simp] theorem setCrcHi_len : (s.setCrcHi b).len = s.len := rfl
@[simp] theorem setCrcHi_crcHi : (s.setCrcHi b).crcHi = some b := rfl
@[simp] theorem setCrcHi_crcLo : (s.setCrcHi b).crcLo = s.crcLo := rfl
@[simp] theorem setCrcHi_frameBytes : (s.setCrcHi b).frameBytes = s.frameBytes := rfl
@[simp] theorem setCrcHi_payloadBytes : (s.setCrcHi b).payloadBytes = s.payloadBytes := rfl
@[simp] theorem setCrcHi_pending : (s.setCrcHi b).pending = s.pending := rfl
@[simp] theorem setCrcHi_result : (s.setCrcHi b).result = s.result := rfl
end setCrcHi

section setCrcLo
variable (b : Byte) (s : State)
@[simp] theorem setCrcLo_connected : (s.setCrcLo b).connected = s.connected := rfl
@[simp] theorem setCrcLo_state : (s.setCrcLo b).state = s.state := rfl
@[simp] theorem setCrcLo_kind : (s.setCrcLo b).kind = s.kind := rfl
@[simp] theorem setCrcLo_code : (s.setCrcLo b).code = s.code := rfl
@[simp] theorem setCrcLo_lenHi : (s.setCrcLo b).lenHi = s.lenHi := rfl
@[simp] theorem setCrcLo_lenLo : (s.setCrcLo b).lenLo = s.lenLo := rfl
@[simp] theorem setCrcLo_len : (s.setCrcLo b).len = s.len := rfl
@[simp] theorem setCrcLo_crcHi : (s.setCrcLo b).crcHi = s.crcHi := rfl
@[simp] theorem setCrcLo_crcLo : (s.setCrcLo b).crcLo = some b := rfl
@[simp] theorem setCrcLo_frameBytes : (s.setCrcLo b).frameBytes = s.frameBytes := rfl
@[simp] theorem setCrcLo_payloadBytes : (s.setCrcLo b).payloadBytes = s.payloadBytes := rfl
@[simp] theorem setCrcLo_pending : (s.setCrcLo b).pending = s.pending := rfl
@[simp] theorem setCrcLo_result : (s.setCrcLo b).result = s.result := rfl
end setCrcLo

section setFrame
variable (bs : List Byte) (s : State)
@[simp] theorem setFrame_connected : (s.setFrame bs).connected = s.connected := rfl
@[simp] theorem setFrame_state : (s.setFrame bs).state = s.state := rfl
@[simp] theorem setFrame_kind : (s.setFrame bs).kind = s.kind := rfl
@[simp] theorem setFrame_code : (s.setFrame bs).code = s.code := rfl
@[simp] theorem setFrame_lenHi : (s.setFrame bs).lenHi = s.lenHi := rfl
@[simp] theorem setFrame_lenLo : (s.setFrame bs).lenLo = s.lenLo := rfl
@[simp] theorem setFrame_len : (s.setFrame bs).len = s.len := rfl
@[simp] theorem setFrame_crcHi : (s.setFrame bs).crcHi = s.crcHi := rfl
@[simp] theorem setFrame_crcLo : (s.setFrame bs).crcLo = s.crcLo := rfl
@[simp] theorem setFrame_frameBytes : (s.setFrame bs).frameBytes = some bs := rfl
@[simp] theorem setFrame_payloadBytes : (s.setFrame bs).payloadBytes = s.payloadBytes := rfl
@[simp] theorem setFrame_pending : (s.setFrame bs).pending = s.pending := rfl
@[simp] theorem setFrame_result : (s.setFrame bs).result = s.result := rfl
end setFrame

section setPayload
variable (bs : List Byte) (s : State)
@[simp] theorem setPayload_connected : (s.setPayload bs).connected = s.connected := rfl
@[simp] theorem setPayload_state : (s.setPayload bs).state = s.state := rfl
@[simp] theorem setPayload_kind : (s.setPayload bs).kind = s.kind := rfl
@[simp] theorem setPayload_code : (s.setPayload bs).code = s.code := rfl
@[simp] theorem setPayload_lenHi : (s.setPayload bs).lenHi = s.lenHi := rfl
@[simp] theorem setPayload_lenLo : (s.setPayload bs).lenLo = s.lenLo := rfl
@[simp] theorem setPayload_len : (s.setPayload bs).len = s.len := rfl
@[simp] theorem setPayload_crcHi : (s.setPayload bs).crcHi = s.crcHi := rfl
@[simp] theorem setPayload_crcLo : (s.setPayload bs).crcLo = s.crcLo := rfl
@[simp] theorem setPayload_frameBytes : (s.setPayload bs).frameBytes = s.frameBytes := rfl
@[simp] theorem setPayload_payloadBytes : (s.setPayload bs).payloadBytes = some bs := rfl
@[simp] theorem setPayload_pending : (s.setPayload bs).pending = s.pending := rfl
@[simp] theorem setPayload_result : (s.setPayload bs).result = s.result := rfl
end setPayload

section setPending
variable (is : List Issue) (s : State)
@[simp] theorem setPending_connected : (s.setPending is).connected = s.connected := rfl
@[simp] theorem setPending_state : (s.setPending is).state = s.state := rfl
@[simp] theorem setPending_kind : (s.setPending is).kind = s.kind := rfl
@[simp] theorem setPending_code : (s.setPending is).code = s.code := rfl
@[simp] theorem setPending_lenHi : (s.setPending is).lenHi = s.lenHi := rfl
@[simp] theorem setPending_lenLo : (s.setPending is).lenLo = s.lenLo := rfl
@[simp] theorem setPending_len : (s.setPending is).len = s.len := rfl
@[simp] theorem setPending_crcHi : (s.setPending is).crcHi = s.crcHi := rfl
@[simp] theorem setPending_crcLo : (s.setPending is).crcLo = s.crcLo := rfl
@[simp] theorem setPending_frameBytes : (s.setPending is).frameBytes = s.frameBytes := rfl
@[simp] theorem setPending_payloadBytes : (s.setPending is).payloadBytes = s.payloadBytes := rfl
@[simp] theorem setPending_pending : (s.setPending is).pending = is := rfl
@[simp] theorem setPending_result : (s.setPending is).result = s.result := rfl
end setPending

section setConnected
variable (c : Bool) (s : State)
@[simp] theorem setConnected_connected : (s.setConnected c).connected = c := rfl
@[simp] theorem setConnected_state : (s.setConnected c).state = s.state := rfl
@[simp] theorem setConnected_kind : (s.setConnected c).kind = s.kind := rfl
@[simp] theorem setConnected_code : (s.setConnected c).code = s.code := rfl
@[simp] theorem setConnected_lenHi : (s.setConnected c).lenHi = s.lenHi := rfl
@[simp] theorem setConnected_lenLo : (s.setConnected c).lenLo = s.lenLo := rfl
@[simp] theorem setConnected_len : (s.setConnected c).len = s.len := rfl
@[simp] theorem setConnected_crcHi : (s.setConnected c).crcHi = s.crcHi := rfl
@[simp] theorem setConnected_crcLo : (s.setConnected c).crcLo = s.crcLo := rfl
@[simp] theorem setConnected_frameBytes : (s.setConnected c).frameBytes = s.frameBytes := rfl
@[simp] theorem setConnected_payloadBytes : (s.setConnected c).payloadBytes = s.payloadBytes := rfl
@[simp] theorem setConnected_pending : (s.setConnected c).pending = s.pending := rfl
@[simp] theorem setConnected_result : (s.setConnected c).result = s.result := rfl
end setConnected

section forgetFields
variable (s : State)
@[simp] theorem forgetFields_connected : s.forgetFields.connected = s.connected := rfl
@[simp] theorem forgetFields_state : s.forgetFields.state = s.state := rfl
@[simp] theorem forgetFields_kind : s.forgetFields.kind = none := rfl
@[simp] theorem forgetFields_code : s.forgetFields.code = none := rfl
@[simp] theorem forgetFields_lenHi : s.forgetFields.lenHi = none := rfl
@[simp] theorem forgetFields_lenLo : s.forgetFields.lenLo = none := rfl
@[simp] theorem forgetFields_len : s.forgetFields.len = none := rfl
@[simp] theorem forgetFields_crcHi : s.forgetFields.crcHi = none := rfl
@[simp] theorem forgetFields_crcLo : s.forgetFields.crcLo = none := rfl
@[simp] theorem forgetFields_frameBytes : s.forgetFields.frameBytes = s.frameBytes := rfl
@[simp] theorem forgetFields_payloadBytes : s.forgetFields.payloadBytes = s.payloadBytes := rfl
@[simp] theorem forgetFields_pending : s.forgetFields.pending = s.pending := rfl
@[simp] theorem forgetFields_result : s.forgetFields.result = s.result := rfl
end forgetFields

section forgetFrame
variable (s : State)
@[simp] theorem forgetFrame_connected : s.forgetFrame.connected = s.connected := rfl
@[simp] theorem forgetFrame_state : s.forgetFrame.state = none := rfl
@[simp] theorem forgetFrame_kind : s.forgetFrame.kind = s.kind := rfl
@[simp] theorem forgetFrame_code : s.forgetFrame.code = s.code := rfl
@[simp] theorem forgetFrame_lenHi : s.forgetFrame.lenHi = s.lenHi := rfl
@[simp] theorem forgetFrame_lenLo : s.forgetFrame.lenLo = s.lenLo := rfl
@[simp] theorem forgetFrame_len : s.forgetFrame.len = s.len := rfl
@[simp] theorem forgetFrame_crcHi : s.forgetFrame.crcHi = s.crcHi := rfl
@[simp] theorem forgetFrame_crcLo : s.forgetFrame.crcLo = s.crcLo := rfl
@[simp] theorem forgetFrame_frameBytes : s.forgetFrame.frameBytes = none := rfl
@[simp] theorem forgetFrame_payloadBytes : s.forgetFrame.payloadBytes = none := rfl
@[simp] theorem forgetFrame_pending : s.forgetFrame.pending = s.pending := rfl
@[simp] theorem forgetFrame_result : s.forgetFrame.result = s.result := rfl
end forgetFrame

@[simp] theorem startFrame_eq (b : Byte) (s : State) : s.startFrame b = s.setFrame [b] := rfl
@[simp] theorem clearFrame_eq (s : State) : s.clearFrame = s.setFrame [] := rfl
@[simp] theorem clearPayload_eq (s : State) : s.clearPayload = s.setPayload [] := rfl

/-- Two states with the same fields are the same state. -/
theorem ext_fields {s t : State} (h0 : s.connected = t.connected) (h1 : s.state = t.state) (h2 : s.kind = t.kind)
    (h3 : s.code = t.code) (h4 : s.lenHi = t.lenHi) (h5 : s.lenLo = t.lenLo) (h6 : s.len = t.len)
    (h7 : s.crcHi = t.crcHi) (h8 : s.crcLo = t.crcLo) (h9 : s.frameBytes = t.frameBytes)
    (h10 : s.payloadBytes = t.payloadBytes) (h11 : s.pending = t.pending) (h12 : s.result = t.result) :
    s = t := by
  cases s; cases t; simp_all

end Sys2Proof.Machine.State
end

