-- ==== Sys2Proof/Laws/Ops.lean ====
section
/-!
SUPPORT. What the shared operations can do, said once: `need`, `withVal`, `seq`, the two appends and `fetch`. An inversion lemma
`…_eq_next` says everything an operation did when it answered a next state.
-/

namespace Sys2Proof.Machine

section need
variable {α : Type} (e : Element)

@[simp] theorem need_some (v : α) : need e (some v) = .ok v := rfl
@[simp] theorem need_none : need e (none : Option α) = .error (.noValue e) := rfl

theorem need_eq_ok {o : Option α} {v : α} : need e o = .ok v ↔ o = some v := by
  cases o <;> simp [need]

end need

section withVal
variable {α : Type} (k : α → Outcome)

@[simp] theorem withVal_ok (v : α) : withVal (.ok v) k = k v := rfl
@[simp] theorem withVal_error (f : Fault) : withVal (.error f) k = .fault f := rfl

theorem withVal_eq_next {x : Except Fault α} {t : State} :
    withVal x k = .next t ↔ ∃ v, x = .ok v ∧ k v = .next t := by
  cases x <;> simp [withVal]

end withVal

section seq
variable (k : State → Outcome)

@[simp] theorem seq_next (s : State) : seq (.next s) k = k s := rfl
@[simp] theorem seq_fault (f : Fault) : seq (.fault f) k = .fault f := rfl
@[simp] theorem seq_refused (r : Refusal) : seq (.refused r) k = .refused r := rfl

theorem seq_eq_next {o : Outcome} {t : State} : seq o k = .next t ↔ ∃ u, o = .next u ∧ k u = .next t := by
  cases o <;> simp [seq]

end seq

theorem appendFrame_of_some {b : Byte} {s : State} {fb : List Byte} (h : s.frameBytes = some fb) :
    appendFrame b s = .next (s.setFrame (fb ++ [b])) := by simp [appendFrame, h]

theorem appendFrame_of_none {b : Byte} {s : State} (h : s.frameBytes = none) :
    appendFrame b s = .fault (.noValue .frameBytes) := by simp [appendFrame, h]

theorem appendFrame_eq_next {b : Byte} {s t : State} :
    appendFrame b s = .next t ↔ ∃ fb, s.frameBytes = some fb ∧ t = s.setFrame (fb ++ [b]) := by
  simp only [appendFrame, withVal_eq_next, need_eq_ok, Host.Outcome.next.injEq]
  exact exists_congr fun _ => and_congr_right fun _ => eq_comm

theorem appendPayload_of_some {b : Byte} {s : State} {pb : List Byte} (h : s.payloadBytes = some pb) :
    appendPayload b s = .next (s.setPayload (pb ++ [b])) := by simp [appendPayload, h]

theorem appendPayload_of_none {b : Byte} {s : State} (h : s.payloadBytes = none) :
    appendPayload b s = .fault (.noValue .payloadBytes) := by simp [appendPayload, h]

theorem appendPayload_eq_next {b : Byte} {s t : State} :
    appendPayload b s = .next t ↔ ∃ pb, s.payloadBytes = some pb ∧ t = s.setPayload (pb ++ [b]) := by
  simp only [appendPayload, withVal_eq_next, need_eq_ok, Host.Outcome.next.injEq]
  exact exists_congr fun _ => and_congr_right fun _ => eq_comm

theorem fetch_of_nil {s : State} (h : s.pending = []) : fetch s = .idle := by simp [fetch, h]

theorem fetch_inTurn {s : State} {w : HostWord} {rest : List Issue} (h : s.pending = Issue.inTurn w :: rest) :
    fetch s = .word w (s.setPending rest) := by simp [fetch, h, Issue.inTurn]

theorem fetch_overlap {s : State} {i : Issue} {rest : List Issue} (h : s.pending = i :: rest) (ho : i.overlaps = true) :
    fetch s = .overlapped := by simp [fetch, h, ho]

/-- What a fetched operation was, and where it stood. -/
theorem fetch_eq_word {s t : State} {w : HostWord} :
    fetch s = .word w t ↔
      ∃ i rest, s.pending = i :: rest ∧ i.overlaps = false ∧ w = i.word ∧ t = s.setPending rest := by
  unfold fetch
  cases hp : s.pending with
  | nil => simp
  | cons i rest =>
    obtain ⟨v, o⟩ := i
    cases o
    · constructor
      · intro h; cases h; exact ⟨_, _, rfl, rfl, rfl, rfl⟩
      · rintro ⟨_, _, h, _, rfl, rfl⟩; cases h; rfl
    · constructor
      · intro h; cases h
      · rintro ⟨_, _, h, ho, _⟩; cases h; cases ho

end Sys2Proof.Machine
end

