-- ==== Sys2Proof/Laws/PerInstr.lean ====
section
/-!
SUPPORT. One law stated instruction by instruction: the encoding of an instruction has the bits its row of
spec/opcode_table.json fixes (30_encoding.md rules R67 to R70). For a transition, its dispatch word and predicate make its own row
of the map apply and carry its byte; for a host operation, the `op` field is the row's.
-/

namespace Sys2Proof.Laws.EncodeMatches

/-- Entry `e` of the transition map applies to an encoding and is the row of instruction `i` on the byte the word carries. -/
def fits (e : RowEntry) (i : Instr) : Encoded → Prop
  | .dispatch w p => e ∈ rxTable ∧ e.applies w p = true ∧ e.row.toInstr (DispatchWord.byteField w) = i
  | .host _ => False

/-- The encoding is a host operation with this `op` field. -/
def hasOp (op : BitVec 2) : Encoded → Prop
  | .host h => h.op = op
  | .dispatch _ _ => False

/-- The fixed bits of each instruction's row: for a transition the state, the byte where the row fixes it, the predicate and the
priority; for a host operation the `op` field. -/
def Statement (i : Instr) : Prop :=
  i.wf = true →
    match i with
    | .preMatch => fits (oneByte .preMatch .awaitPreamble Config.PREAMBLE) i (encode i)
    | .preSkip _ => fits (anyByte .preSkip .awaitPreamble .always 1) i (encode i)
    | .type _ => fits (anyByte .type .awaitType .always 0) i (encode i)
    | .code _ => fits (anyByte .code .awaitCode .always 0) i (encode i)
    | .lenhi _ => fits (anyByte .lenhi .awaitLenHi .always 0) i (encode i)
    | .lenloZero _ => fits (anyByte .lenloZero .awaitLenLo .holds 0) i (encode i)
    | .lenloNz _ => fits (anyByte .lenloNz .awaitLenLo .fails 0) i (encode i)
    | .payMore _ => fits (anyByte .payMore .awaitPayload .fails 0) i (encode i)
    | .payLast _ => fits (anyByte .payLast .awaitPayload .holds 0) i (encode i)
    | .endOk => fits (oneByte .endOk .awaitEndMark Config.ENDMARK) i (encode i)
    | .endBad _ => fits (anyByte .endBad .awaitEndMark .always 1) i (encode i)
    | .crchi _ => fits (anyByte .crchi .awaitCrcHi .always 0) i (encode i)
    | .crcloOk _ => fits (anyByte .crcloOk .awaitCrcLo .holds 0) i (encode i)
    | .crcloBad _ => fits (anyByte .crcloBad .awaitCrcLo .fails 0) i (encode i)
    | .rxByte _ => hasOp 0b00#2 (encode i)
    | .reset => hasOp 0b01#2 (encode i)
    | .txFrame _ _ _ => hasOp 0b10#2 (encode i)
    | .disconnect => hasOp 0b11#2 (encode i)

/-- A row on the byte of a word is decided by the row, the byte and the predicate. -/
theorem fits_dispatch {e : RowEntry} {i : Instr} {c : StateCode} {b : Byte} {p : Bool} (hm : e ∈ rxTable)
    (ha : e.applies (dispatchWord c b) p = true) (hi : e.row.toInstr b = i) :
    fits e i (.dispatch (dispatchWord c b) p) :=
  ⟨hm, ha, by rw [byteField_dispatchWord]; exact hi⟩

theorem preMatch : Statement .preMatch := fun _ => fits_dispatch (by simp [rxTable]) (by simp) rfl
theorem preSkip (b : Byte) : Statement (.preSkip b) := fun _ => fits_dispatch (by simp [rxTable]) (by simp [Cond.met]) rfl
theorem type (b : Byte) : Statement (.type b) := fun _ => fits_dispatch (by simp [rxTable]) (by simp [Cond.met]) rfl
theorem code (b : Byte) : Statement (.code b) := fun _ => fits_dispatch (by simp [rxTable]) (by simp [Cond.met]) rfl
theorem lenhi (b : Byte) : Statement (.lenhi b) := fun _ => fits_dispatch (by simp [rxTable]) (by simp [Cond.met]) rfl
theorem lenloZero (b : Byte) : Statement (.lenloZero b) :=
  fun _ => fits_dispatch (by simp [rxTable]) (by simp [Cond.met]) rfl
theorem lenloNz (b : Byte) : Statement (.lenloNz b) := fun _ => fits_dispatch (by simp [rxTable]) (by simp [Cond.met]) rfl
theorem payMore (b : Byte) : Statement (.payMore b) := fun _ => fits_dispatch (by simp [rxTable]) (by simp [Cond.met]) rfl
theorem payLast (b : Byte) : Statement (.payLast b) := fun _ => fits_dispatch (by simp [rxTable]) (by simp [Cond.met]) rfl
theorem endOk : Statement .endOk := fun _ => fits_dispatch (by simp [rxTable]) (by simp) rfl
theorem endBad (b : Byte) : Statement (.endBad b) := fun _ => fits_dispatch (by simp [rxTable]) (by simp [Cond.met]) rfl
theorem crchi (b : Byte) : Statement (.crchi b) := fun _ => fits_dispatch (by simp [rxTable]) (by simp [Cond.met]) rfl
theorem crcloOk (b : Byte) : Statement (.crcloOk b) := fun _ => fits_dispatch (by simp [rxTable]) (by simp [Cond.met]) rfl
theorem crcloBad (b : Byte) : Statement (.crcloBad b) :=
  fun _ => fits_dispatch (by simp [rxTable]) (by simp [Cond.met]) rfl
theorem rxByte (b : Byte) : Statement (.rxByte b) := fun _ => rfl
theorem reset : Statement .reset := fun _ => rfl
theorem txFrame (kind code : Byte) (payload : List Byte) : Statement (.txFrame kind code payload) := fun _ => rfl
theorem disconnect : Statement .disconnect := fun _ => rfl

end Sys2Proof.Laws.EncodeMatches
end

