-- ==== Sys2Proof/Laws/Receive.lean ====
section
/-!
SUPPORT. `RX_BYTE` in each decoder state: the transition it runs, once the admission check and the state's predicate are read
off. Later proofs cite these and never unfold `execRxByte` or the table.
-/

namespace Sys2Proof.Machine

section predicate
variable {b : Byte} {s : State}

theorem flagLenZero_of_some {h : Byte} (hs : s.lenHi = some h) : flagLenZero b s = .ok (h == 0#8 && b == 0#8) := by
  simp [flagLenZero, hs]

theorem flagPayLast_of_some {pb : List Byte} {n : Word16} (hp : s.payloadBytes = some pb) (hn : s.len = some n) :
    flagPayLast s = .ok (pb.length + 1 == n.toNat) := by
  simp [flagPayLast, hp, hn]

theorem flagCrcOk_of_some {h : Byte} {fb : List Byte} (hh : s.crcHi = some h) (hf : s.frameBytes = some fb) :
    flagCrcOk b s = .ok (join h b == crc16 fb) := by
  simp [flagCrcOk, hh, hf]

/-- The predicate of each decoder state. -/
theorem statePredicate_of_code (d : DState) :
    statePredicate d.code b s = match d with
      | .awaitLenLo => flagLenZero b s
      | .awaitPayload => flagPayLast s
      | .awaitCrcLo => flagCrcOk b s
      | .awaitPreamble => .ok false
      | .awaitType => .ok false
      | .awaitCode => .ok false
      | .awaitLenHi => .ok false
      | .awaitEndMark => .ok false
      | .awaitCrcHi => .ok false := by
  cases d <;> simp [statePredicate, DState.code_inj]

end predicate

@[simp] theorem runSelected_some {row : Row} {b : Byte} {s : State} : runSelected (some row) b s = runRow row b s := rfl

theorem runSelected_eq_next {o : Option Row} {b : Byte} {s t : State} :
    runSelected o b s = .next t ↔ ∃ row, o = some row ∧ runRow row b s = .next t := by
  cases o <;> simp [runSelected]

theorem rxByte_of_not_connected {b : Byte} {s : State} (h : s.connected = false) :
    execRxByte b s = .refused .notConnected := by simp [execRxByte, h]

/-- `RX_BYTE` on a connected block whose state register holds the code of `d`: the predicate is read, then the selected row
runs. -/
theorem rxByte_of_code {b : Byte} {s : State} {d : DState} (hc : s.connected = true) (hs : s.state = some d.code) :
    execRxByte b s = withVal (statePredicate d.code b s) fun p =>
      runSelected (selectRow (dispatchWord d.code b) p) b s := by
  simp [execRxByte, hc, hs]

section connected
variable {b : Byte} {s : State} (hc : s.connected = true)

include hc

theorem rxByte_awaitPreamble (hs : s.state = some DState.awaitPreamble.code) :
    execRxByte b s = if b = Config.PREAMBLE then execPreMatch s else execPreSkip b s := by
  rw [rxByte_of_code hc hs]
  by_cases h : b = Config.PREAMBLE <;> simp [statePredicate_of_code, selectRow_of_code, h, runRow]

theorem rxByte_awaitType (hs : s.state = some DState.awaitType.code) : execRxByte b s = execType b s := by
  simp [rxByte_of_code hc hs, statePredicate_of_code, selectRow_of_code, runRow]

theorem rxByte_awaitCode (hs : s.state = some DState.awaitCode.code) : execRxByte b s = execCode b s := by
  simp [rxByte_of_code hc hs, statePredicate_of_code, selectRow_of_code, runRow]

theorem rxByte_awaitLenHi (hs : s.state = some DState.awaitLenHi.code) : execRxByte b s = execLenhi b s := by
  simp [rxByte_of_code hc hs, statePredicate_of_code, selectRow_of_code, runRow]

theorem rxByte_awaitLenLo (hs : s.state = some DState.awaitLenLo.code) {h : Byte} (hh : s.lenHi = some h) :
    execRxByte b s = if h = 0#8 ∧ b = 0#8 then execLenloZero b s else execLenloNz b s := by
  rw [rxByte_of_code hc hs]
  by_cases e : h = 0#8 ∧ b = 0#8
  · simp [statePredicate_of_code, selectRow_of_code, flagLenZero_of_some hh, e.1, e.2, runRow]
  · have e' : (h == 0#8 && b == 0#8) = false := by
      rw [Bool.eq_false_iff]; intro hb; exact e (by simpa using hb)
    simp [statePredicate_of_code, selectRow_of_code, flagLenZero_of_some hh, e', if_neg e, runRow]

theorem rxByte_awaitPayload (hs : s.state = some DState.awaitPayload.code) {pb : List Byte} {n : Word16}
    (hp : s.payloadBytes = some pb) (hn : s.len = some n) :
    execRxByte b s = if pb.length + 1 = n.toNat then execPayLast b s else execPayMore b s := by
  rw [rxByte_of_code hc hs]
  by_cases e : pb.length + 1 = n.toNat <;>
    simp [statePredicate_of_code, selectRow_of_code, flagPayLast_of_some hp hn, e, runRow]

theorem rxByte_awaitEndMark (hs : s.state = some DState.awaitEndMark.code) :
    execRxByte b s = if b = Config.ENDMARK then execEndOk s else execEndBad b s := by
  rw [rxByte_of_code hc hs]
  by_cases h : b = Config.ENDMARK <;> simp [statePredicate_of_code, selectRow_of_code, h, runRow]

theorem rxByte_awaitCrcHi (hs : s.state = some DState.awaitCrcHi.code) : execRxByte b s = execCrchi b s := by
  simp [rxByte_of_code hc hs, statePredicate_of_code, selectRow_of_code, runRow]

theorem rxByte_awaitCrcLo (hs : s.state = some DState.awaitCrcLo.code) {h : Byte} {fb : List Byte}
    (hh : s.crcHi = some h) (hf : s.frameBytes = some fb) :
    execRxByte b s = if join h b = crc16 fb then execCrcloOk b s else execCrcloBad b s := by
  rw [rxByte_of_code hc hs]
  by_cases e : join h b = crc16 fb <;>
    simp [statePredicate_of_code, selectRow_of_code, flagCrcOk_of_some hh hf, e, runRow]

end connected

/-- When `RX_BYTE` answers a next state, the block was connected, in a legal decoder state, and one selected row ran. -/
theorem rxByte_eq_next {b : Byte} {s t : State} (h : execRxByte b s = .next t) :
    s.connected = true ∧ ∃ (d : DState) (p : Bool) (row : Row), s.state = some d.code ∧ statePredicate d.code b s = .ok p ∧
      selectRow (dispatchWord d.code b) p = some row ∧ runRow row b s = .next t := by
  unfold execRxByte at h
  split at h
  · rename_i hc
    refine ⟨hc, ?_⟩
    obtain ⟨c, hs, h⟩ := (withVal_eq_next _).1 h
    rw [need_eq_ok] at hs
    split at h
    · exact absurd h (by simp)
    · rename_i hle
      obtain ⟨p, hp, h⟩ := (withVal_eq_next _).1 h
      obtain ⟨d, rfl⟩ := (stateCode_cases c).resolve_right hle
      obtain ⟨row, hr, h⟩ := runSelected_eq_next.1 h
      exact ⟨d, p, row, hs, hp, hr, h⟩
  · exact absurd h (by simp)

section results
variable {b : Byte} {s : State}

/-- The two length rows share one effect up to the next state. -/
theorem takeLenLo_of_some {h : Byte} {fb : List Byte} (hh : s.lenHi = some h) (hf : s.frameBytes = some fb) :
    takeLenLo b s = .next (((s.setLenLo b).setFrame (fb ++ [b])).setLen (join h b)) := by
  simp [takeLenLo, appendFrame, hf, hh]

/-- The two payload rows share one effect up to the next state. -/
theorem takePayload_of_some {fb pb : List Byte} (hf : s.frameBytes = some fb) (hp : s.payloadBytes = some pb) :
    takePayload b s = .next ((s.setPayload (pb ++ [b])).setFrame (fb ++ [b])) := by
  simp [takePayload, appendPayload, appendFrame, hf, hp]

theorem takeLenLo_eq_next {t : State} :
    takeLenLo b s = .next t ↔ ∃ fb h, s.frameBytes = some fb ∧ s.lenHi = some h ∧
      t = ((s.setLenLo b).setFrame (fb ++ [b])).setLen (join h b) := by
  cases hf : s.frameBytes <;> cases hh : s.lenHi <;>
    simp [takeLenLo, appendFrame, hf, hh, eq_comm]

theorem takePayload_eq_next {t : State} :
    takePayload b s = .next t ↔ ∃ fb pb, s.frameBytes = some fb ∧ s.payloadBytes = some pb ∧
      t = (s.setPayload (pb ++ [b])).setFrame (fb ++ [b]) := by
  cases hf : s.frameBytes <;> cases hp : s.payloadBytes <;>
    simp [takePayload, appendPayload, appendFrame, hf, hp, eq_comm]

end results

end Sys2Proof.Machine
end

