-- ==== Sys2Proof/Laws/Safety.lean ====
section
/-!
SUPPORT. Small lemmas about the terms of Safety.lean.
-/

namespace Sys2Proof.Machine

/-- Two blocks in a known decoder state are alike when the live elements of that state agree. -/
theorem alike_of_isIn {s t : State} {d : DState} (hs : s.isIn d) (ht : t.isIn d) (hc : s.connected = t.connected)
    (h : ∀ e ∈ DState.live d, e.same s t) : s.alike t := by
  refine ⟨hc, hs.trans ht.symm, fun d' hd => ?_⟩
  obtain rfl := DState.code_inj.1 (Option.some.inj (hd.symm.trans hs))
  exact h

end Sys2Proof.Machine
end

