-- ==== Sys2Proof/Tests/Slice0.lean ====
section
/-!
SUPPORT. Tests of the model, each of one word, one value or one step, and a witness for every statement that has hypotheses.
Expected values come from spec/: the encodings of 30_encoding.md, the vectors V-… of 95_test_vectors.md section 2 and the rules.
-/

namespace Sys2Proof.Tests

open Sys2Proof.Machine

/-- A connected block in decoder state `d` with these buffers, kind 00 and code 03. -/
def inState (d : DState) (fb pb : List Byte) : State :=
  { State.reset with
    state := some d.code, kind := some 0x00#8, code := some 0x03#8, frameBytes := some fb, payloadBytes := some pb }

/-- A block past its header: kind 00, code 03, length `h ‖ l`, payload so far `pb`, then `tail` in the CRC input. -/
def pastHeader (d : DState) (h l : Byte) (pb tail : List Byte) : State :=
  { inState d ([0x00#8, 0x03#8, h, l] ++ pb ++ tail) pb with
    lenHi := some h, lenLo := some l, len := some (h ++ l) }

/-- The block of V-RX-16: in `AwaitCrcLo`, waiting for the last byte of V-TX-1. -/
def lastByteDue : State :=
  { pastHeader .awaitCrcLo 0x00#8 0x01#8 [0x00#8] [0x7E#8] with crcHi := some 0x48#8 }

/-- What `f` sees of the next state; nothing where the machine stopped. -/
def seen {α : Type} (f : State → α) : Outcome → Option α
  | .next t => some (f t)
  | .fault _ => none
  | .refused _ => none

/-! ### Well-formedness: each check refuses an ill-formed instruction -/

theorem test_wf_preSkip_refuses_preamble : (Instr.preSkip 0xBB#8).wf = false := by decide
theorem test_wf_lenloZero_refuses_one : (Instr.lenloZero 0x01#8).wf = false := by decide
theorem test_wf_endBad_refuses_endMark : (Instr.endBad 0x7E#8).wf = false := by decide
/-- The bound on a payload, by its length alone. -/
theorem wf_txFrame_eq {p : List Byte} {n : Nat} (h : p.length = n) :
    (Instr.txFrame 0#8 0#8 p).wf = decide (n ≤ 65535) := h ▸ rfl

theorem execTxFrame_long {p : List Byte} {n : Nat} (h : p.length = n) (hn : 65535 < n) :
    exec (.txFrame 0#8 0#8 p) State.reset = .refused .payloadTooLong := by
  simp [exec, execTxFrame, State.reset, Config.MAX_PAYLOAD, h, hn]

theorem test_wf_txFrame_refuses_65536 : (Instr.txFrame 0#8 0#8 (List.replicate 65536 0#8)).wf = false := by
  rw [wf_txFrame_eq List.length_replicate]; decide
theorem test_wf_txFrame_admits_65535 : (Instr.txFrame 0#8 0#8 (List.replicate 65535 0#8)).wf = true := by
  rw [wf_txFrame_eq List.length_replicate]; decide

/-! ### Decoding: one word for every constructor, written out from R69, R70 and R101 to R114 -/

theorem test_decode_preMatch : decode (.dispatch 0b0000_10111011#12 false) = .ok .preMatch := by decide
theorem test_decode_preSkip : decode (.dispatch 0b0000_10111010#12 false) = .ok (.preSkip 0xBA#8) := by decide
theorem test_decode_type : decode (.dispatch 0b0001_10111011#12 false) = .ok (.type 0xBB#8) := by decide
theorem test_decode_code : decode (.dispatch 0b0010_11111111#12 false) = .ok (.code 0xFF#8) := by decide
theorem test_decode_lenhi : decode (.dispatch 0b0011_00000001#12 false) = .ok (.lenhi 0x01#8) := by decide
theorem test_decode_lenloZero : decode (.dispatch 0b0100_00000000#12 true) = .ok (.lenloZero 0x00#8) := by decide
theorem test_decode_lenloNz : decode (.dispatch 0b0100_11111111#12 false) = .ok (.lenloNz 0xFF#8) := by decide
theorem test_decode_payMore : decode (.dispatch 0b0101_10111011#12 false) = .ok (.payMore 0xBB#8) := by decide
theorem test_decode_payLast : decode (.dispatch 0b0101_01111110#12 true) = .ok (.payLast 0x7E#8) := by decide
theorem test_decode_endOk : decode (.dispatch 0b0110_01111110#12 false) = .ok .endOk := by decide
theorem test_decode_endBad : decode (.dispatch 0b0110_01111111#12 false) = .ok (.endBad 0x7F#8) := by decide
theorem test_decode_crchi : decode (.dispatch 0b0111_01001000#12 false) = .ok (.crchi 0x48#8) := by decide
theorem test_decode_crcloOk : decode (.dispatch 0b1000_10101011#12 true) = .ok (.crcloOk 0xAB#8) := by decide
theorem test_decode_crcloBad : decode (.dispatch 0b1000_10101010#12 false) = .ok (.crcloBad 0xAA#8) := by decide
theorem test_decode_rxByte : decode (.host ⟨0b00#2, 0xBB#8, 1#8, 2#8, [3#8]⟩) = .ok (.rxByte 0xBB#8) := by decide
theorem test_decode_reset : decode (.host ⟨0b01#2, 0xBB#8, 1#8, 2#8, [3#8]⟩) = .ok .reset := by decide
theorem test_decode_txFrame : decode (.host ⟨0b10#2, 0xBB#8, 1#8, 2#8, [3#8]⟩) = .ok (.txFrame 1#8 2#8 [3#8]) := by decide
theorem test_decode_disconnect : decode (.host ⟨0b11#2, 0xBB#8, 1#8, 2#8, [3#8]⟩) = .ok .disconnect := by decide
theorem test_decode_refuses_unused_state : decode (.dispatch 0b1111_00000000#12 true) = .error .illegalState := by decide
theorem test_decode_refuses_nonzero_lenZero :
    decode (.dispatch 0b0100_00000001#12 true) = .error .impossiblePredicate := by decide

/-- The rows of spec/opcode_table.json: an unused row of bits is refused, the padding of a dispatch word is not read. -/
theorem test_tableWords :
    decodeTableWord 16 0x0BB = some .preMatch ∧ decodeTableWord 16 0x67E = some .endOk ∧
      decodeTableWord 16 0x600 = some (.endBad 0#8) ∧ decodeTableWord 16 0x900 = none ∧
      decodeTableWord 8 0x1 = some .reset ∧ decodeTableWord 8 0x3 = some .disconnect := by decide

/-! ### The CRC engine -/

/-- V-CRC-1 to V-CRC-3. -/
theorem test_crcStep_first_vectors :
    crcStep 0x0000#16 0x00#8 = 0x0000#16 ∧ crcStep 0xFFFF#16 0x00#8 = 0xE1F0#16 ∧
      crcStep 0x0000#16 0x01#8 = 0x1021#16 := by decide
/-- V-CRC-5 and V-CRC-14: the byte enters the high half. -/
theorem test_crcStep_byte_position :
    crcStep 0x8000#16 0x00#8 = 0x9188#16 ∧ crcStep 0x0000#16 0x80#8 = 0x9188#16 ∧
      crcStep 0x1234#16 0x56#8 = 0x3C40#16 := by decide
/-- V-CRC-8: the check value of "123456789". -/
theorem test_crc16_check_value :
    crc16 [0x31#8, 0x32#8, 0x33#8, 0x34#8, 0x35#8, 0x36#8, 0x37#8, 0x38#8, 0x39#8] = 0x29B1#16 := by decide +kernel
/-- V-CRC-6 and V-CRC-9. -/
theorem test_crc16_short_inputs : crc16 [] = 0xFFFF#16 ∧ crc16 [0xFF#8, 0xFF#8] = 0x0000#16 := by decide +kernel

/-! ### The transitions, by RX_BYTE: the vectors V-RX-… -/

/-- V-RX-1. -/
theorem test_preMatch_step :
    seen (fun t => (t.state, t.result)) (exec (.rxByte 0xBB#8) State.reset) = some (some 1#4, .needMore) := by decide
/-- V-RX-2: an end mark between frames is ignored. -/
theorem test_preSkip_step :
    seen (fun t => (t.state, t.frameBytes)) (exec (.rxByte 0x7E#8) State.reset) = some (some 0#4, some []) := by decide
/-- V-RX-4: the preamble value as kind; the old payload goes. -/
theorem test_type_step :
    seen (fun t => (t.kind, t.frameBytes, t.payloadBytes))
      (exec (.rxByte 0xBB#8) (inState .awaitType [] [0x11#8, 0x22#8])) =
      some (some 0xBB#8, some [0xBB#8], some []) := by decide
/-- V-RX-5. -/
theorem test_code_step :
    seen (fun t => (t.code, t.frameBytes, t.state)) (exec (.rxByte 0xFF#8) (inState .awaitCode [0x00#8] [])) =
      some (some 0xFF#8, some [0x00#8, 0xFF#8], some 3#4) := by decide
/-- V-RX-6. -/
theorem test_lenhi_step :
    seen (fun t => (t.lenHi, t.frameBytes, t.state)) (exec (.rxByte 0x01#8) (inState .awaitLenHi [0x00#8, 0x03#8] [])) =
      some (some 0x01#8, some [0x00#8, 0x03#8, 0x01#8], some 4#4) := by decide
/-- V-RX-7. -/
theorem test_lenloZero_step :
    seen (fun t => (t.lenLo, t.len, t.state))
      (exec (.rxByte 0x00#8) { inState .awaitLenLo [] [] with lenHi := some 0x00#8 }) =
      some (some 0x00#8, some 0#16, some 6#4) := by decide
/-- V-RX-8: a low length byte 0 is not the length 0. -/
theorem test_lenloNz_step_256 :
    seen (fun t => (t.lenLo, t.len, t.state))
      (exec (.rxByte 0x00#8) { inState .awaitLenLo [] [] with lenHi := some 0x01#8 }) =
      some (some 0x00#8, some 256#16, some 5#4) := by decide
/-- V-RX-9. -/
theorem test_lenloNz_step_65535 :
    seen (fun t => (t.len, t.state))
      (exec (.rxByte 0xFF#8) { inState .awaitLenLo [] [] with lenHi := some 0xFF#8 }) =
      some (some 65535#16, some 5#4) := by decide
/-- V-RX-10: the preamble value as payload. -/
theorem test_payMore_step :
    seen (fun t => (t.payloadBytes, t.state)) (exec (.rxByte 0xBB#8) (pastHeader .awaitPayload 0x00#8 0x02#8 [] [])) =
      some (some [0xBB#8], some 5#4) := by decide
/-- V-RX-11: the end mark as payload. -/
theorem test_payLast_step :
    seen (fun t => (t.payloadBytes, t.state))
      (exec (.rxByte 0x7E#8) (pastHeader .awaitPayload 0x00#8 0x02#8 [0xBB#8] [])) =
      some (some [0xBB#8, 0x7E#8], some 6#4) := by decide
/-- V-RX-19: a payload of one byte. -/
theorem test_payLast_step_one :
    seen (fun t => (t.payloadBytes, t.state)) (exec (.rxByte 0x00#8) (pastHeader .awaitPayload 0x00#8 0x01#8 [] [])) =
      some (some [0x00#8], some 6#4) := by decide
/-- V-RX-12. -/
theorem test_endOk_step :
    seen (fun t => (t.frameBytes, t.state)) (exec (.rxByte 0x7E#8) (inState .awaitEndMark [0x01#8] [])) =
      some (some [0x01#8, 0x7E#8], some 7#4) := by decide
/-- V-RX-13: a preamble where the end mark is due is consumed. -/
theorem test_endBad_step :
    seen (fun t => (t.frameBytes, t.state)) (exec (.rxByte 0xBB#8) (inState .awaitEndMark [0x01#8] [])) =
      some (some [0x01#8, 0xBB#8], some 0#4) := by decide
/-- V-RX-14. -/
theorem test_crchi_step :
    seen (fun t => (t.crcHi, t.frameBytes, t.state)) (exec (.rxByte 0x48#8) (inState .awaitCrcHi [0x7E#8] [])) =
      some (some 0x48#8, some [0x7E#8], some 8#4) := by decide
/-- V-RX-16. -/
theorem test_crcloOk_step :
    seen (fun t => (t.crcLo, t.state, t.result)) (exec (.rxByte 0xAB#8) lastByteDue) =
      some (some 0xAB#8, some 0#4, .frameReady 0x00#8 0x03#8 [0x00#8]) := by decide +kernel
/-- V-RX-17: a CRC wrong in one bit. -/
theorem test_crcloBad_step :
    seen (fun t => (t.crcLo, t.state, t.result)) (exec (.rxByte 0xAA#8) lastByteDue) =
      some (some 0xAA#8, some 0#4, .needMore) := by decide +kernel
/-- V-FLIP-1: a wrong high CRC byte. -/
theorem test_crcloBad_step_high :
    seen (fun t => t.result) (exec (.rxByte 0xAB#8) { lastByteDue with crcHi := some 0x49#8 }) = some .needMore := by decide +kernel

/-! ### Host operations, refusals and faults: the vectors V-TX-… and V-LC-… -/

/-- V-TX-2. -/
theorem test_txFrame_failure_frame :
    seen (fun t => t.result) (exec (.txFrame 0x01#8 0xFF#8 [0x36#8, 0x02#8]) State.reset) =
      some (.bytes [0xBB#8, 0x01#8, 0xFF#8, 0x00#8, 0x02#8, 0x36#8, 0x02#8, 0x7E#8, 0x7E#8, 0x46#8]) := by decide +kernel
/-- V-TX-8: nothing is escaped; a frame in progress is left alone. -/
theorem test_txFrame_no_escape :
    seen (fun t => (t.state, t.result))
      (exec (.txFrame 0xFF#8 0xBB#8 [0xBB#8, 0x7E#8]) (inState .awaitType [] [])) =
      some (some 1#4,
        .bytes [0xBB#8, 0xFF#8, 0xBB#8, 0x00#8, 0x02#8, 0xBB#8, 0x7E#8, 0x7E#8, 0x3B#8, 0xD8#8]) := by decide +kernel
/-- V-TX-16. -/
theorem test_txFrame_too_long :
    exec (.txFrame 0#8 0#8 (List.replicate 65536 0#8)) State.reset = .refused .payloadTooLong :=
  execTxFrame_long List.length_replicate (by decide)
/-- V-LC-1 and V-LC-2. -/
theorem test_power_on_refuses :
    exec (.rxByte 0#8) State.powerOn = .refused .notConnected ∧
      exec (.txFrame 0#8 3#8 [0#8]) State.powerOn = .refused .notConnected := ⟨rfl, rfl⟩
/-- V-LC-3 and V-LC-5. -/
theorem test_reset_step :
    exec .reset State.powerOn = .next State.reset ∧ exec .reset lastByteDue = .next State.reset := ⟨rfl, rfl⟩
/-- V-LC-7. -/
theorem test_disconnect_step :
    exec .disconnect lastByteDue = .next State.powerOn ∧ exec .disconnect State.powerOn = .next State.powerOn := ⟨rfl, rfl⟩
/-- V-LC-9. -/
theorem test_unused_state_faults :
    exec (.rxByte 0xBB#8) { State.reset with state := some 9#4 } = .fault .illegalState ∧
      exec (.rxByte 0x00#8) { State.reset with state := some 15#4 } = .fault .illegalState := ⟨rfl, rfl⟩
/-- R131 and R154: an overlapping operation is refused, whatever it is. -/
theorem test_overlap_refused :
    step { State.reset with pending := [⟨.disconnect, true⟩] } = .refused .interleaved := rfl
/-- R34: a read of an element without a value names it. -/
theorem test_read_without_value :
    exec (.rxByte 0x00#8) { State.reset with state := some 4#4 } = .fault (.noValue .lenHi) ∧
      exec (.rxByte 0x00#8) { State.reset with state := some 8#4 } = .fault (.noValue .crcHi) := ⟨rfl, rfl⟩
/-- R46, R48: one operation a step, the first issued first. -/
theorem test_step_takes_first :
    seen (fun t => (t.state, t.pending)) (step (State.reset.withOps [.rx 0xBB#8, .disconnect])) =
      some (some 1#4, [⟨.disconnect, false⟩]) := by decide
/-- R140, R156: with nothing issued nothing expires. -/
theorem test_idle_step : step lastByteDue = .next lastByteDue := rfl

/-! ### The program notation (R72, R73) -/

/-- A comment, a byte list and the operands of `RXF!`, as in program P2. -/
theorem test_read_program :
    readProgram ["RESET".toList, "RXS 00 7E FF  ; noise".toList, "; nothing".toList,
        "RXF! 0x00, 0x22, [], 0x01".toList, "TX 0x02, 0x22, [1F]".toList] =
      some [.reset, .rxs [0x00#8, 0x7E#8, 0xFF#8], .rxfBad 0x00#8 0x22#8 [] 0x01#8, .tx 0x02#8 0x22#8 [0x1F#8]] := by
  decide
/-- Program P2: `RXF! 0x00, 0x22, [], 0x01` is `RXS BB 00 22 00 00 7E 54 72`. -/
theorem test_expand_corrupt_frame :
    (AsmLine.rxfBad 0x00#8 0x22#8 [] 0x01#8).expand =
      (AsmLine.rxs [0xBB#8, 0x00#8, 0x22#8, 0x00#8, 0x00#8, 0x7E#8, 0x54#8, 0x72#8]).expand := by decide +kernel

/-! ### Placed words: the next step runs the row -/

theorem test_placed_endBad :
    step (State.reset.withFetchWord 16 0x600) =
      exec (.endBad 0#8) { State.reset.withFetchWord 16 0x600 with pending := [] } := rfl
theorem test_placed_crcloBad :
    seen (fun t => t.result) (step (State.reset.withFetchWord 16 0x8AB)) = some .needMore := by decide

/-! ### Witnesses: a concrete state and operands that meet the hypotheses of each statement that has some -/

theorem test_inv_reset : BlockInv State.reset :=
  ⟨nofun, fun _ => ⟨⟨[], [], rfl, rfl, by decide, by decide⟩, .awaitPreamble, rfl, trivial⟩⟩

theorem test_inv_powerOn : BlockInv State.powerOn :=
  ⟨fun _ => ⟨rfl, rfl, rfl, rfl, rfl, rfl, rfl, rfl, rfl, rfl⟩, nofun⟩

/-- The header has arrived in every block `pastHeader` builds. -/
theorem pastHeader_holdsHeader (d : DState) (h l : Byte) (pb tail : List Byte) :
    (pastHeader d h l pb tail).holdsHeader pb tail := ⟨0x00#8, 0x03#8, h, l, rfl, rfl, rfl, rfl, rfl, rfl, rfl⟩

theorem test_inv_awaitPayload : BlockInv (pastHeader .awaitPayload 0x00#8 0x02#8 [0xBB#8] []) :=
  ⟨nofun, fun _ => ⟨⟨_, _, rfl, rfl, by decide, by decide⟩, .awaitPayload, rfl, _, _, pastHeader_holdsHeader .., rfl,
    by decide⟩⟩

theorem test_inv_lastByteDue : BlockInv lastByteDue :=
  ⟨nofun, fun _ => ⟨⟨_, _, rfl, rfl, by decide, by decide⟩, .awaitCrcLo, rfl, _, _,
    ⟨0x00#8, 0x03#8, 0x00#8, 0x01#8, rfl, rfl, rfl, rfl, rfl, rfl, rfl⟩, rfl, by decide, _, rfl⟩⟩

/-- The invariant says something: a payload longer than its length breaks it. -/
theorem test_inv_refuses_long_payload : ¬ BlockInv (pastHeader .awaitEndMark 0x00#8 0x01#8 [0x00#8, 0x00#8] []) := by
  rintro ⟨-, h⟩
  obtain ⟨-, d, hd, hr⟩ := h rfl
  have hd' : DState.awaitEndMark.code = d.code := Option.some.inj hd
  cases d <;> first | exact absurd hd' (by decide) | skip
  obtain ⟨pb, n, ⟨_, _, _, _, _, _, _, _, _, hp, _⟩, hn, hl⟩ := hr
  cases hp; cases hn; exact absurd hl (by decide)

theorem test_witness_DecodeUndoesEncode :
    (Instr.preSkip 0xBA#8).wf = true ∧ (Instr.lenloZero 0x00#8).wf = true ∧ (Instr.endBad 0xBB#8).wf = true ∧
      (Instr.txFrame 0#8 0#8 []).wf = true := by decide

theorem test_witness_DispatchDecodeIsSound :
    decode (.dispatch 0x8FF#12 true) = .ok (.crcloOk 0xFF#8) ∧ decode (.dispatch 0x000#12 false) = .ok (.preSkip 0x00#8) := by
  decide

theorem test_witness_ExactlyOneRowWins :
    DispatchWord.stateField 0x8FF#12 ≤ 8#4 ∧ 8#4 < DispatchWord.stateField 0x900#12 ∧
      8#4 < DispatchWord.stateField 0xFFF#12 := by decide

theorem test_witness_StepRunsDecodedOperation :
    (State.reset.withOps [.rx 0xBB#8]).pending = Issue.inTurn (.rx 0xBB#8) :: [] ∧
      decode (.host (.rx 0xBB#8)) = .ok (.rxByte 0xBB#8) := by decide

theorem test_witness_IdleStepKeepsBlock : State.reset.pending = [] := rfl

theorem test_witness_PlacedWordRunsNext :
    decodeTableWord 8 0x2 = some (.txFrame 0#8 0#8 []) ∧ decodeTableWord 16 0x500 = some (.payLast 0#8) ∧
      decodeTableWord 16 0x400 = some (.lenloZero 0#8) ∧ decodeTableWord 16 0x401 = some (.lenloNz 1#8) := by decide

theorem test_witness_PreambleSearch :
    State.reset.connected = true ∧ State.reset.isIn .awaitPreamble ∧ (0xBC#8 : Byte) ≠ Config.PREAMBLE := by decide

theorem test_witness_TypeByteStartsFrame :
    (inState .awaitType [] [0x11#8]).connected = true ∧ (inState .awaitType [] [0x11#8]).isIn .awaitType := by decide

theorem test_witness_CodeByteStored :
    (inState .awaitCode [0x00#8] []).connected = true ∧ (inState .awaitCode [0x00#8] []).isIn .awaitCode ∧
      (inState .awaitCode [0x00#8] []).frameBytes = some [0x00#8] := by decide

theorem test_witness_LenHiByteStored :
    (inState .awaitLenHi [0x00#8, 0x03#8] []).connected = true ∧
      (inState .awaitLenHi [0x00#8, 0x03#8] []).isIn .awaitLenHi ∧
      (inState .awaitLenHi [0x00#8, 0x03#8] []).frameBytes = some [0x00#8, 0x03#8] := by decide

/-- The bytes of the length 0, of 1, of 256 (whose low byte is 0) and of 65535, for the two length rows. -/
theorem test_witness_length_rows :
    (∀ h : Byte, { inState .awaitLenLo [0x00#8, 0x03#8, h] [] with lenHi := some h }.connected = true ∧
      { inState .awaitLenLo [0x00#8, 0x03#8, h] [] with lenHi := some h }.isIn .awaitLenLo ∧
      { inState .awaitLenLo [0x00#8, 0x03#8, h] [] with lenHi := some h }.frameBytes = some [0x00#8, 0x03#8, h] ∧
      { inState .awaitLenLo [0x00#8, 0x03#8, h] [] with lenHi := some h }.lenHi = some h) ∧
    ((0x00#8 : Byte) = 0#8 ∧ (0x00#8 : Byte) = 0#8) ∧ ¬((0x00#8 : Byte) = 0#8 ∧ (0x01#8 : Byte) = 0#8) ∧
    ¬((0x01#8 : Byte) = 0#8 ∧ (0x00#8 : Byte) = 0#8) ∧ ¬((0xFF#8 : Byte) = 0#8 ∧ (0xFF#8 : Byte) = 0#8) :=
  ⟨fun _ => ⟨rfl, rfl, rfl, rfl⟩, by decide⟩

/-- A payload byte that is not the last: the first of two. -/
theorem test_witness_PayloadByteAppended :
    (pastHeader .awaitPayload 0x00#8 0x02#8 [] []).connected = true ∧
      (pastHeader .awaitPayload 0x00#8 0x02#8 [] []).isIn .awaitPayload ∧
      (pastHeader .awaitPayload 0x00#8 0x02#8 [] []).frameBytes = some [0x00#8, 0x03#8, 0x00#8, 0x02#8] ∧
      (pastHeader .awaitPayload 0x00#8 0x02#8 [] []).payloadBytes = some [] ∧
      (pastHeader .awaitPayload 0x00#8 0x02#8 [] []).len = some 2#16 ∧ 0 + 1 ≠ (2#16).toNat := by decide

/-- The only payload byte of a frame of length 1, and the second of two. -/
theorem test_witness_LastPayloadByteEndsPayload :
    (pastHeader .awaitPayload 0x00#8 0x01#8 [] []).isIn .awaitPayload ∧
      (pastHeader .awaitPayload 0x00#8 0x01#8 [] []).len = some 1#16 ∧ 0 + 1 = (1#16).toNat ∧
      (pastHeader .awaitPayload 0x00#8 0x02#8 [0xBB#8] []).connected = true ∧
      (pastHeader .awaitPayload 0x00#8 0x02#8 [0xBB#8] []).isIn .awaitPayload ∧
      (pastHeader .awaitPayload 0x00#8 0x02#8 [0xBB#8] []).frameBytes =
        some [0x00#8, 0x03#8, 0x00#8, 0x02#8, 0xBB#8] ∧
      (pastHeader .awaitPayload 0x00#8 0x02#8 [0xBB#8] []).payloadBytes = some [0xBB#8] ∧
      (pastHeader .awaitPayload 0x00#8 0x02#8 [0xBB#8] []).len = some 2#16 ∧ 1 + 1 = (2#16).toNat := by decide

/-- A block at the end mark, for `EndMarkFound` and `WrongEndMarkAbandonsFrame`. -/
theorem test_witness_end_mark_rows :
    (inState .awaitEndMark [0x01#8] []).connected = true ∧ (inState .awaitEndMark [0x01#8] []).isIn .awaitEndMark ∧
      (inState .awaitEndMark [0x01#8] []).frameBytes = some [0x01#8] ∧ (0x7E#8 : Byte) = Config.ENDMARK ∧
      (0xBB#8 : Byte) ≠ Config.ENDMARK := by decide

theorem test_witness_CrcHiByteStored :
    (inState .awaitCrcHi [0x7E#8] []).connected = true ∧ (inState .awaitCrcHi [0x7E#8] []).isIn .awaitCrcHi := by decide

/-- V-RX-16 for `MatchingCrcDeliversFrame`, V-RX-17 for `WrongCrcDropsFrame`. -/
theorem test_witness_crc_rows :
    lastByteDue.connected = true ∧ lastByteDue.isIn .awaitCrcLo ∧ lastByteDue.crcHi = some 0x48#8 ∧
      lastByteDue.frameBytes = some [0x00#8, 0x03#8, 0x00#8, 0x01#8, 0x00#8, 0x7E#8] ∧
      lastByteDue.kind = some 0x00#8 ∧ lastByteDue.code = some 0x03#8 ∧ lastByteDue.payloadBytes = some [0x00#8] ∧
      join 0x48#8 0xAB#8 = crc16 [0x00#8, 0x03#8, 0x00#8, 0x01#8, 0x00#8, 0x7E#8] ∧
      join 0x48#8 0xAA#8 ≠ crc16 [0x00#8, 0x03#8, 0x00#8, 0x01#8, 0x00#8, 0x7E#8] := by decide +kernel

/-- The last clause of `MatchingCrcDeliversFrame`. -/
theorem test_witness_other_rows :
    Row.preSkip ≠ .crcloOk ∧
      exec (Row.preSkip.toInstr 0#8) State.reset = .next { State.reset with result := .needMore } :=
  ⟨by decide, rfl⟩

/-- `TxFrameHasWireLayout` with the shortest and the longest payload. -/
theorem test_witness_TxFrameHasWireLayout :
    State.reset.connected = true ∧ ([] : List Byte).length ≤ Config.MAX_PAYLOAD ∧ 65535 ≤ Config.MAX_PAYLOAD ∧
      ∃ p : List Byte, p.length = 65535 :=
  ⟨rfl, by decide, by decide, _, List.length_replicate (a := 0#8)⟩

theorem test_witness_ContractViolationsRefused :
    State.powerOn.connected = false ∧ State.reset.connected = true ∧ (∃ p : List Byte, 65535 < p.length) ∧
      { State.reset with pending := [⟨.connect, true⟩] }.pending = ⟨.connect, true⟩ :: [] :=
  ⟨rfl, rfl, ⟨List.replicate 65536 0#8, by rw [List.length_replicate]; decide⟩, rfl⟩

theorem test_witness_UnusedStateCodeFaults :
    { State.reset with state := some 9#4 }.connected = true ∧ { State.reset with state := some 9#4 }.state = some 9#4 ∧
      9 ≤ (9#4).toNat ∧ { State.reset with state := some 15#4 }.state = some 15#4 ∧ 9 ≤ (15#4).toNat := by decide

/-- A connected block in decoder state `d` with no element but the state register holding a value. -/
def bare (d : DState) : State := { State.powerOn with connected := true, state := some d.code }

/-- For each clause of `ReadWithoutValueFaults` a block in the state it names: first those that miss the element read first. -/
theorem test_witness_ReadWithoutValueFaults_first :
    { State.powerOn with connected := true }.connected = true ∧ { State.powerOn with connected := true }.state = none ∧
      (∀ d, (bare d).connected = true ∧ (bare d).isIn d ∧ (bare d).frameBytes = none ∧ (bare d).lenHi = none ∧
        (bare d).payloadBytes = none ∧ (bare d).crcHi = none) :=
  ⟨rfl, rfl, fun _ => ⟨rfl, rfl, rfl, rfl, rfl, rfl⟩⟩

/-- Then those that miss an element read later: the length, and the CRC input of each state that reads something before it. -/
theorem test_witness_ReadWithoutValueFaults_later :
    { State.reset with state := some 5#4 }.isIn .awaitPayload ∧ { State.reset with state := some 5#4 }.payloadBytes ≠ none ∧
      { State.reset with state := some 5#4 }.len = none ∧
      { bare .awaitLenLo with lenHi := some 0x00#8 }.isIn .awaitLenLo ∧
      { bare .awaitLenLo with lenHi := some 0x00#8 }.lenHi ≠ none ∧
      { bare .awaitLenLo with lenHi := some 0x00#8 }.frameBytes = none ∧
      { pastHeader .awaitPayload 0x00#8 0x01#8 [] [] with frameBytes := none }.isIn .awaitPayload ∧
      { pastHeader .awaitPayload 0x00#8 0x01#8 [] [] with frameBytes := none }.payloadBytes ≠ none ∧
      { pastHeader .awaitPayload 0x00#8 0x01#8 [] [] with frameBytes := none }.len ≠ none ∧
      { lastByteDue with frameBytes := none }.isIn .awaitCrcLo ∧ { lastByteDue with frameBytes := none }.crcHi ≠ none := by
  decide

/-- And those that miss an element a matching CRC delivers; the CRC of V-RX-16 matches (`test_witness_crc_rows`). -/
theorem test_witness_ReadWithoutValueFaults_delivery :
    { lastByteDue with kind := none }.isIn .awaitCrcLo ∧ { lastByteDue with kind := none }.kind = none ∧
      { lastByteDue with code := none }.isIn .awaitCrcLo ∧ { lastByteDue with code := none }.kind ≠ none ∧
      { lastByteDue with code := none }.code = none ∧
      { lastByteDue with payloadBytes := none }.isIn .awaitCrcLo ∧ { lastByteDue with payloadBytes := none }.kind ≠ none ∧
      { lastByteDue with payloadBytes := none }.code ≠ none ∧
      { lastByteDue with payloadBytes := none }.payloadBytes = none := by decide

theorem test_witness_UnwrittenElementsKept :
    exec (.txFrame 0#8 3#8 []) State.reset =
        .next { State.reset with result := .bytes (encodeFrame 0#8 3#8 []) } ∧
      Element.state ∉ writes (.txFrame 0#8 3#8 []) ∧ Element.payloadBytes ∉ writes (.endBad 0xBB#8) :=
  ⟨rfl, by decide, by decide⟩

/-- A step from a state that meets the invariant, into one that must meet it again. -/
theorem test_witness_StepKeepsInvariant :
    BlockInv (State.powerOn.withOps [.connect]) ∧ step (State.powerOn.withOps [.connect]) = .next State.reset :=
  ⟨test_inv_powerOn, rfl⟩

/-- For `ReceiveNeverStops`, `NoFaultUnderInvariant` and `TransmitAndReceiveIndependent`. -/
theorem test_witness_ReceiveNeverStops :
    BlockInv lastByteDue ∧ lastByteDue.connected = true ∧
      ∀ w ∈ [HostWord.rx 0xAB#8, .tx 0#8 0x22#8 [], .rx 0xBB#8], w.isTraffic = true :=
  ⟨test_inv_lastByteDue, rfl, by decide⟩

/-- For `OnlyCheckedFramesDelivered` and `DeliveredBytesAreEncoded`. -/
theorem test_witness_OnlyCheckedFramesDelivered :
    BlockInv lastByteDue ∧
      seen (fun t => t.result) (step (lastByteDue.withOps [.rx 0xAB#8])) = some (.frameReady 0#8 3#8 [0#8]) ∧
      seen (fun t => t.result) (exec (.rxByte 0xAB#8) lastByteDue) = some (.frameReady 0#8 3#8 [0#8]) :=
  ⟨test_inv_lastByteDue, by decide +kernel, by decide +kernel⟩

/-- For `EncodedFrameDecodes`, `CorruptCrcDropped`, `NoRescanOfConsumedBytes` and `OutputHeldUntilNextType`: two different blocks
between frames, V-FLIP-9, and bytes without a preamble. -/
theorem test_witness_between_frames :
    State.reset.connected = true ∧ State.reset.isIn .awaitPreamble ∧
      (inState .awaitPreamble [0x01#8] [0x02#8]).connected = true ∧
      (inState .awaitPreamble [0x01#8] [0x02#8]).isIn .awaitPreamble ∧ [0x00#8].length ≤ Config.MAX_PAYLOAD ∧
      (0x48#8, 0xAA#8) ≠ (hiByte (crc16 (frameBody 0#8 3#8 [0#8])), loByte (crc16 (frameBody 0#8 3#8 [0#8]))) ∧
      Config.PREAMBLE ∉ [0x00#8, 0x7E#8, 0xFF#8] := by decide +kernel

/-- For `ReceiveKeepsBlocksAlike`: two blocks at the last byte that differ in every element nothing reads from there on. -/
theorem test_witness_ReceiveKeepsBlocksAlike :
    lastByteDue.alike { lastByteDue with lenHi := none, lenLo := none, len := none, crcLo := some 0xFF#8 } ∧
      lastByteDue ≠ { lastByteDue with lenHi := none, lenLo := none, len := none, crcLo := some 0xFF#8 } ∧
      seen (fun t => t.result) (exec (.rxByte 0xAB#8) lastByteDue) = some (.frameReady 0#8 3#8 [0#8]) :=
  ⟨⟨rfl, rfl, fun d hd e he => by
    obtain rfl : DState.awaitCrcLo = d := by revert hd; cases d <;> decide
    fin_cases he <;> rfl⟩, by decide, test_witness_OnlyCheckedFramesDelivered.2.2⟩

/-- For `PayloadBytesAreData`: a preamble and an end mark inside a payload of three. -/
theorem test_witness_PayloadBytesAreData :
    (pastHeader .awaitPayload 0x00#8 0x03#8 [] []).connected = true ∧
      (pastHeader .awaitPayload 0x00#8 0x03#8 [] []).isIn .awaitPayload ∧
      (pastHeader .awaitPayload 0x00#8 0x03#8 [] []).frameBytes = some [0x00#8, 0x03#8, 0x00#8, 0x03#8] ∧
      (pastHeader .awaitPayload 0x00#8 0x03#8 [] []).payloadBytes = some [] ∧
      (pastHeader .awaitPayload 0x00#8 0x03#8 [] []).len = some 3#16 ∧
      ([] : List Byte).length + [0xBB#8, 0x7E#8].length < (3#16).toNat := by decide

/-- For `RunningCrcFollowsBuffer`: after the whole buffer, and between frames with no register. -/
theorem test_witness_RunningCrcFollowsBuffer :
    Running.follows ⟨{ lastByteDue with frameBytes := none },
        some (crc16 [0x00#8, 0x03#8, 0x00#8, 0x01#8, 0x00#8, 0x7E#8])⟩ lastByteDue ∧
      Running.follows ⟨{ State.reset with frameBytes := none }, none⟩ State.reset :=
  ⟨⟨rfl, .inr (.inr rfl)⟩, rfl, .inl rfl⟩

theorem test_witness_RunFromResetForgetsPast :
    runOps [.rx 0xBB#8] State.reset = some ([.needMore], { State.reset with state := some 1#4, result := .needMore }) := rfl

theorem test_witness_InstancesAreIndependent :
    stepInstance 1 [State.powerOn, State.powerOn.withOps [.connect]] = .next [State.powerOn, State.reset] := rfl

theorem test_witness_FramePseudoOperationsExpand :
    ([] : List Byte).length ≤ Config.MAX_PAYLOAD ∧ (0x01#8 : Byte) ≠ 0#8 := by decide

end Sys2Proof.Tests
end

section
/-!
PROOFS. The scope family (00_scope.md): the blocks of different connections share no state.
-/

namespace Sys2Proof.Machine

/-- What a step of the list can do when it has a next state: nothing, where connection `n` has no block, or that block's own
step (R139). -/
theorem stepInstance_next_cases {n : Nat} {blocks blocks' : List State} (h : stepInstance n blocks = .next blocks') :
    (blocks[n]? = none ∧ blocks' = blocks) ∨
      ∃ s t, blocks[n]? = some s ∧ step s = .next t ∧ blocks' = blocks.set n t := by
  unfold stepInstance at h
  split at h
  case h_1 hn =>
    cases h
    exact .inl ⟨hn, rfl⟩
  case h_2 s hn =>
    split at h
    case h_1 t ht =>
      cases h
      exact .inr ⟨s, t, hn, ht, rfl⟩
    all_goals cases h

/-- Settles O50: the list is either unchanged, or changed by `List.set` at the place of the named connection alone. -/
theorem instancesAreIndependent : Obligations.InstancesAreIndependent := by
  intro blocks blocks' n h
  obtain ⟨hn, rfl⟩ | ⟨s, t, hn, ht, rfl⟩ := stepInstance_next_cases h
  · exact ⟨rfl, fun _ _ => rfl, fun s hs => by simp [hn] at hs⟩
  · obtain ⟨hlt, -⟩ := List.getElem?_eq_some_iff.mp hn
    refine ⟨List.length_set, fun m hm => List.getElem?_set_ne hm.symm, fun s' hs' => ?_⟩
    obtain rfl : s = s' := Option.some.inj (hn.symm.trans hs')
    exact ⟨t, ht, List.getElem?_set_self hlt⟩

end Sys2Proof.Machine
end

section
/-!
PROOFS. The state family (10_state.md): what every operation leaves of the state, the invariant of R28, R34 and R41, and runs that
do not depend on what a `RESET` or a `TX_FRAME` stands between.
-/

namespace Sys2Proof.Machine

/-! ### The effect of each transition -/

/-- What a transition can do when it answers a next state: for each row, what it read and the whole state it leaves (R101 to
R114). -/
inductive RowStep (b : Byte) (s : State) : Row → State → Prop
  | preMatch : RowStep b s .preMatch ((s.goto .awaitType).ret .needMore)
  | preSkip : RowStep b s .preSkip (s.ret .needMore)
  | type : RowStep b s .type ((((s.setKind b).setFrame [b]).setPayload []).goto .awaitCode |>.ret .needMore)
  | code {fb : List Byte} (hf : s.frameBytes = some fb) :
      RowStep b s .code (((s.setCode b).setFrame (fb ++ [b])).goto .awaitLenHi |>.ret .needMore)
  | lenhi {fb : List Byte} (hf : s.frameBytes = some fb) :
      RowStep b s .lenhi (((s.setLenHi b).setFrame (fb ++ [b])).goto .awaitLenLo |>.ret .needMore)
  | lenloZero {fb : List Byte} {h : Byte} (hf : s.frameBytes = some fb) (hh : s.lenHi = some h) :
      RowStep b s .lenloZero
        ((((s.setLenLo b).setFrame (fb ++ [b])).setLen (join h b)).goto .awaitEndMark |>.ret .needMore)
  | lenloNz {fb : List Byte} {h : Byte} (hf : s.frameBytes = some fb) (hh : s.lenHi = some h) :
      RowStep b s .lenloNz
        ((((s.setLenLo b).setFrame (fb ++ [b])).setLen (join h b)).goto .awaitPayload |>.ret .needMore)
  | payMore {fb pb : List Byte} (hf : s.frameBytes = some fb) (hp : s.payloadBytes = some pb) :
      RowStep b s .payMore (((s.setPayload (pb ++ [b])).setFrame (fb ++ [b])).ret .needMore)
  | payLast {fb pb : List Byte} (hf : s.frameBytes = some fb) (hp : s.payloadBytes = some pb) :
      RowStep b s .payLast (((s.setPayload (pb ++ [b])).setFrame (fb ++ [b])).goto .awaitEndMark |>.ret .needMore)
  | endOk {fb : List Byte} (hf : s.frameBytes = some fb) :
      RowStep b s .endOk ((s.setFrame (fb ++ [Config.ENDMARK])).goto .awaitCrcHi |>.ret .needMore)
  | endBad {fb : List Byte} (hf : s.frameBytes = some fb) :
      RowStep b s .endBad ((s.setFrame (fb ++ [b])).goto .awaitPreamble |>.ret .needMore)
  | crchi : RowStep b s .crchi ((s.setCrcHi b).goto .awaitCrcLo |>.ret .needMore)
  | crcloOk {k c : Byte} {p : List Byte} (hk : s.kind = some k) (hcode : s.code = some c)
      (hp : s.payloadBytes = some p) :
      RowStep b s .crcloOk ((s.setCrcLo b).goto .awaitPreamble |>.ret (.frameReady k c p))
  | crcloBad : RowStep b s .crcloBad ((s.setCrcLo b).goto .awaitPreamble |>.ret .needMore)

section rowStep
variable {row : Row} {b : Byte} {s t : State}

theorem RowStep.run (h : RowStep b s row t) : runRow row b s = .next t := by
  cases h with
  | preMatch => rfl
  | preSkip => rfl
  | type => rfl
  | code hf => simp [runRow, execCode, appendFrame, hf]
  | lenhi hf => simp [runRow, execLenhi, appendFrame, hf]
  | lenloZero hf hh => simp [runRow, execLenloZero, takeLenLo_of_some hh hf]
  | lenloNz hf hh => simp [runRow, execLenloNz, takeLenLo_of_some hh hf]
  | payMore hf hp => simp [runRow, execPayMore, takePayload_of_some hf hp]
  | payLast hf hp => simp [runRow, execPayLast, takePayload_of_some hf hp]
  | endOk hf => simp [runRow, execEndOk, appendFrame, hf]
  | endBad hf => simp [runRow, execEndBad, appendFrame, hf]
  | crchi => rfl
  | crcloOk hk hcode hp => simp [runRow, execCrcloOk, hk, hcode, hp]
  | crcloBad => rfl

theorem seq_appendFrame_eq_next {k : State → Outcome} : seq (appendFrame b s) k = .next t ↔
    ∃ fb, s.frameBytes = some fb ∧ k (s.setFrame (fb ++ [b])) = .next t := by
  cases hf : s.frameBytes <;> simp [appendFrame, hf]

theorem seq_takeLenLo_eq_next {k : State → Outcome} : seq (takeLenLo b s) k = .next t ↔
    ∃ fb h, s.frameBytes = some fb ∧ s.lenHi = some h ∧
      k (((s.setLenLo b).setFrame (fb ++ [b])).setLen (join h b)) = .next t := by
  cases hf : s.frameBytes <;> cases hh : s.lenHi <;> simp [takeLenLo, appendFrame, hf, hh]

theorem seq_takePayload_eq_next {k : State → Outcome} : seq (takePayload b s) k = .next t ↔
    ∃ fb pb, s.frameBytes = some fb ∧ s.payloadBytes = some pb ∧
      k ((s.setPayload (pb ++ [b])).setFrame (fb ++ [b])) = .next t := by
  cases hf : s.frameBytes <;> cases hp : s.payloadBytes <;> simp [takePayload, appendPayload, appendFrame, hf, hp]

theorem RowStep.of_run (h : runRow row b s = .next t) : RowStep b s row t := by
  cases row with
  | preMatch => cases h; exact .preMatch
  | preSkip => cases h; exact .preSkip
  | type => cases h; exact .type
  | code =>
    obtain ⟨fb, hf, ⟨⟩⟩ := seq_appendFrame_eq_next.1 h
    exact .code hf
  | lenhi =>
    obtain ⟨fb, hf, ⟨⟩⟩ := seq_appendFrame_eq_next.1 h
    exact .lenhi hf
  | lenloZero =>
    obtain ⟨fb, hi, hf, hh, ⟨⟩⟩ := seq_takeLenLo_eq_next.1 h
    exact .lenloZero hf hh
  | lenloNz =>
    obtain ⟨fb, hi, hf, hh, ⟨⟩⟩ := seq_takeLenLo_eq_next.1 h
    exact .lenloNz hf hh
  | payMore =>
    obtain ⟨fb, pb, hf, hp, ⟨⟩⟩ := seq_takePayload_eq_next.1 h
    exact .payMore hf hp
  | payLast =>
    obtain ⟨fb, pb, hf, hp, ⟨⟩⟩ := seq_takePayload_eq_next.1 h
    exact .payLast hf hp
  | endOk =>
    obtain ⟨fb, hf, ⟨⟩⟩ := seq_appendFrame_eq_next.1 h
    exact .endOk hf
  | endBad =>
    obtain ⟨fb, hf, ⟨⟩⟩ := seq_appendFrame_eq_next.1 h
    exact .endBad hf
  | crchi => cases h; exact .crchi
  | crcloOk =>
    obtain ⟨k, hk, h⟩ := (withVal_eq_next _).1 h
    obtain ⟨c, hcode, h⟩ := (withVal_eq_next _).1 h
    obtain ⟨p, hp, h⟩ := (withVal_eq_next _).1 h
    cases h; exact .crcloOk ((need_eq_ok _).1 hk) ((need_eq_ok _).1 hcode) ((need_eq_ok _).1 hp)
  | crcloBad => cases h; exact .crcloBad

/-- A row's meaning is its instruction's (log entry 8). -/
theorem runRow_eq_exec (row : Row) (b : Byte) (s : State) : runRow row b s = exec (row.toInstr b) s := by
  cases row <;> rfl

end rowStep

/-! ### The invariant of a connected block -/

section invariant
variable {b : Byte} {s t : State} {d : DState}

/-- A length assembled from two bytes that are not both 0 is at least 1 (R107). -/
theorem join_pos {h l : Byte} (hne : ¬(h = 0#8 ∧ l = 0#8)) : 0 < (join h l).toNat := by
  refine Nat.pos_of_ne_zero fun hz => hne (join_inj.1 (?_ : join h l = join 0#8 0#8))
  exact BitVec.eq_of_toNat_eq hz

/-- The bound of R8, in numbers. -/
@[simp] theorem maxFrameBytes_eq : Config.maxFrameBytes = 65540 := rfl

/-- From the header on, a payload within its declared length and at most one byte after it are within the bounds of R41. -/
theorem State.holdsHeader.buffersBounded {pb tail : List Byte} {n : Word16} (hh : s.holdsHeader pb tail)
    (hp : pb.length ≤ n.toNat) (ht : tail.length ≤ 1) : s.buffersBounded := by
  obtain ⟨k, c, h, l, -, -, -, -, -, hpb, hfb⟩ := hh
  have := n.isLt
  refine ⟨_, _, hfb, hpb, ?_, ?_⟩
  · simp; omega
  · simp only [Config.MAX_PAYLOAD]; omega

/-- The bounds of R41 follow from the row of R28 in every decoder state that has one. -/
theorem State.buffersBounded_of_row (hd : d ≠ .awaitPreamble ∧ d ≠ .awaitType) (hr : s.rowOfR28 d) :
    s.buffersBounded := by
  cases d with
  | awaitPreamble => exact absurd rfl hd.1
  | awaitType => exact absurd rfl hd.2
  | awaitCode =>
    obtain ⟨k, -, hf, hp⟩ := hr
    exact ⟨_, _, hf, hp, by simp, by simp⟩
  | awaitLenHi =>
    obtain ⟨k, c, -, -, hf, hp⟩ := hr
    exact ⟨_, _, hf, hp, by simp, by simp⟩
  | awaitLenLo =>
    obtain ⟨k, c, h, -, -, -, hf, hp⟩ := hr
    exact ⟨_, _, hf, hp, by simp, by simp⟩
  | awaitPayload =>
    obtain ⟨pb, n, hh, -, hp⟩ := hr
    exact hh.buffersBounded hp.le (by decide)
  | awaitEndMark =>
    obtain ⟨pb, n, hh, -, hp⟩ := hr
    exact hh.buffersBounded hp.le (by decide)
  | awaitCrcHi =>
    obtain ⟨pb, n, hh, -, hp⟩ := hr
    exact hh.buffersBounded hp.le (by decide)
  | awaitCrcLo =>
    obtain ⟨pb, n, hh, -, hp, -⟩ := hr
    exact hh.buffersBounded hp.le (by decide)

theorem BlockInv.of_connected (hc : s.connected = true) (hb : s.buffersBounded) (hs : s.isIn d) (hr : s.rowOfR28 d) :
    BlockInv s :=
  ⟨fun h => by simp [hc] at h, fun _ => ⟨hb, d, hs, hr⟩⟩

/-- Inside a frame the row of R28 is all the invariant asks. -/
theorem BlockInv.of_row (hc : s.connected = true) (hs : s.isIn d) (hd : d ≠ .awaitPreamble ∧ d ≠ .awaitType)
    (hr : s.rowOfR28 d) : BlockInv s :=
  .of_connected hc (State.buffersBounded_of_row hd hr) hs hr

/-- The invariant looks at the elements of R20 only. -/
theorem BlockInv.of_sameBlock (h : BlockInv s) (hst : s.sameBlock t) : BlockInv t := by
  rw [← hst]
  exact h

/-- The outcome is the next state of an `RX_BYTE` that went well: still connected, with the invariant, and with a result R116
allows. -/
def Receives (o : Outcome) : Prop := ∃ t, o = .next t ∧ t.connected = true ∧ BlockInv t ∧ t.result.isRx = true

theorem Receives.of_row {o : Outcome} (ho : o = .next t) (hc : t.connected = true) (hs : t.isIn d)
    (hd : d ≠ .awaitPreamble ∧ d ≠ .awaitType) (hr : t.rowOfR28 d) (hres : t.result.isRx = true) : Receives o :=
  ⟨t, ho, hc, .of_row hc hs hd hr, hres⟩

section rx
variable (hc : s.connected = true)
include hc

theorem receives_awaitPreamble (hs : s.isIn .awaitPreamble) (hb : s.buffersBounded) : Receives (execRxByte b s) := by
  rw [rxByte_awaitPreamble hc hs]
  split
  · exact ⟨_, rfl, hc, .of_connected (d := .awaitType) hc hb rfl trivial, rfl⟩
  · exact ⟨_, rfl, hc, .of_connected (d := .awaitPreamble) hc hb hs trivial, rfl⟩

theorem receives_awaitType (hs : s.isIn .awaitType) : Receives (execRxByte b s) := by
  rw [rxByte_awaitType hc hs]
  exact .of_row (d := .awaitCode) rfl hc rfl (by decide) ⟨b, rfl, rfl, rfl⟩ rfl

theorem receives_awaitCode (hs : s.isIn .awaitCode) (hr : s.rowOfR28 .awaitCode) : Receives (execRxByte b s) := by
  obtain ⟨k, hk, hf, hp⟩ := hr
  rw [rxByte_awaitCode hc hs]
  exact .of_row (d := .awaitLenHi) (RowStep.code hf).run hc rfl (by decide)
    ⟨k, b, hk, rfl, rfl, hp⟩ rfl

theorem receives_awaitLenHi (hs : s.isIn .awaitLenHi) (hr : s.rowOfR28 .awaitLenHi) : Receives (execRxByte b s) := by
  obtain ⟨k, c, hk, hcode, hf, hp⟩ := hr
  rw [rxByte_awaitLenHi hc hs]
  exact .of_row (d := .awaitLenLo) (RowStep.lenhi hf).run hc rfl (by decide)
    ⟨k, c, b, hk, hcode, rfl, rfl, hp⟩ rfl

theorem receives_awaitLenLo (hs : s.isIn .awaitLenLo) (hr : s.rowOfR28 .awaitLenLo) : Receives (execRxByte b s) := by
  obtain ⟨k, c, h, hk, hcode, hh, hf, hp⟩ := hr
  rw [rxByte_awaitLenLo hc hs hh]
  split
  · rename_i hz
    obtain ⟨rfl, rfl⟩ := hz
    exact .of_row (d := .awaitEndMark) (RowStep.lenloZero hf hh).run hc rfl (by decide)
      ⟨[], _, ⟨k, c, 0#8, 0#8, hk, hcode, hh, rfl, rfl, hp, rfl⟩, rfl, by decide⟩ rfl
  · rename_i hz
    exact .of_row (d := .awaitPayload) (RowStep.lenloNz hf hh).run hc rfl (by decide)
      ⟨[], _, ⟨k, c, h, b, hk, hcode, hh, rfl, rfl, hp, rfl⟩, rfl, join_pos hz⟩ rfl

theorem receives_awaitPayload (hs : s.isIn .awaitPayload) (hr : s.rowOfR28 .awaitPayload) :
    Receives (execRxByte b s) := by
  obtain ⟨pb, n, ⟨k, c, h, l, hk, hcode, hh, hl, hlen, hp, hf⟩, hn, hlt⟩ := hr
  rw [rxByte_awaitPayload hc hs hp hn]
  have hf' : some ([k, c, h, l] ++ pb ++ [] ++ [b]) = some ([k, c, h, l] ++ (pb ++ [b]) ++ []) := by simp
  split
  · rename_i hlast
    exact .of_row (d := .awaitEndMark) (RowStep.payLast hf hp).run hc rfl (by decide)
      ⟨pb ++ [b], n, ⟨k, c, h, l, hk, hcode, hh, hl, hlen, rfl, hf'⟩, hn, by simpa using hlast⟩ rfl
  · rename_i hmore
    have hlt' : (pb ++ [b]).length < n.toNat := by simp; omega
    exact .of_row (d := .awaitPayload) (RowStep.payMore hf hp).run hc hs (by decide)
      ⟨pb ++ [b], n, ⟨k, c, h, l, hk, hcode, hh, hl, hlen, rfl, hf'⟩, hn, hlt'⟩ rfl

theorem receives_awaitEndMark (hs : s.isIn .awaitEndMark) (hr : s.rowOfR28 .awaitEndMark) :
    Receives (execRxByte b s) := by
  obtain ⟨pb, n, ⟨k, c, h, l, hk, hcode, hh, hl, hlen, hp, hf⟩, hn, heq⟩ := hr
  rw [rxByte_awaitEndMark hc hs]
  split
  · exact .of_row (d := .awaitCrcHi) (RowStep.run (b := b) (.endOk hf)) hc rfl (by decide)
      ⟨pb, n, ⟨k, c, h, l, hk, hcode, hh, hl, hlen, hp, by simp⟩, hn, heq⟩ rfl
  · have hb : (((s.setFrame ([k, c, h, l] ++ pb ++ [] ++ [b])).goto .awaitPreamble).ret .needMore).buffersBounded :=
      State.holdsHeader.buffersBounded (tail := [b]) ⟨k, c, h, l, hk, hcode, hh, hl, hlen, hp, by simp⟩ heq.le
        (by simp)
    exact ⟨_, (RowStep.endBad hf).run, hc, .of_connected (d := .awaitPreamble) hc hb rfl trivial, rfl⟩

theorem receives_awaitCrcHi (hs : s.isIn .awaitCrcHi) (hr : s.rowOfR28 .awaitCrcHi) : Receives (execRxByte b s) := by
  obtain ⟨pb, n, hheader, hn, heq⟩ := hr
  rw [rxByte_awaitCrcHi hc hs]
  exact .of_row (d := .awaitCrcLo) rfl hc rfl (by decide) ⟨pb, n, hheader, hn, heq, b, rfl⟩ rfl

theorem receives_awaitCrcLo (hs : s.isIn .awaitCrcLo) (hb : s.buffersBounded) (hr : s.rowOfR28 .awaitCrcLo) :
    Receives (execRxByte b s) := by
  obtain ⟨pb, n, ⟨k, c, h, l, hk, hcode, -, -, -, hp, hf⟩, -, -, hi, hhi⟩ := hr
  rw [rxByte_awaitCrcLo hc hs hhi hf]
  split
  · exact ⟨_, (RowStep.crcloOk hk hcode hp).run, hc, .of_connected (d := .awaitPreamble) hc hb rfl trivial, rfl⟩
  · exact ⟨_, rfl, hc, .of_connected (d := .awaitPreamble) hc hb rfl trivial, rfl⟩

/-- Under the invariant `RX_BYTE` on a connected block completes, keeps the invariant and returns what R116 allows. -/
theorem BlockInv.receives (hi : BlockInv s) : Receives (execRxByte b s) := by
  obtain ⟨hb, d, hs, hr⟩ := hi.2 hc
  cases d with
  | awaitPreamble => exact receives_awaitPreamble hc hs hb
  | awaitType => exact receives_awaitType hc hs
  | awaitCode => exact receives_awaitCode hc hs hr
  | awaitLenHi => exact receives_awaitLenHi hc hs hr
  | awaitLenLo => exact receives_awaitLenLo hc hs hr
  | awaitPayload => exact receives_awaitPayload hc hs hr
  | awaitEndMark => exact receives_awaitEndMark hc hs hr
  | awaitCrcHi => exact receives_awaitCrcHi hc hs hr
  | awaitCrcLo => exact receives_awaitCrcLo hc hs hb hr

end rx
end invariant

/-! ### Every step under the invariant -/

/-- R150 and R34: the whole state after `RESET`. -/
theorem execReset_eq (s : State) : execReset s = .next { State.reset with pending := s.pending } := rfl

/-- R151 and R34: the whole state after `DISCONNECT`. -/
theorem execDisconnect_eq (s : State) : execDisconnect s = .next { State.powerOn with pending := s.pending } := rfl

/-- `TX_FRAME` within its contract returns the frame and writes nothing else (R80, R83). -/
theorem execTxFrame_of_connected {s : State} (k c : Byte) {p : List Byte} (hc : s.connected = true)
    (hp : p.length ≤ Config.MAX_PAYLOAD) :
    execTxFrame k c p s = .next (s.ret (.bytes (encodeFrame k c p))) := by
  simp [execTxFrame, hc, Nat.not_lt.2 hp]

/-- `TX_FRAME` is within its contract or refused (R80, R131). -/
theorem execTxFrame_cases (k c : Byte) (p : List Byte) (s : State) :
    (s.connected = true ∧ p.length ≤ Config.MAX_PAYLOAD ∧
      execTxFrame k c p s = .next (s.ret (.bytes (encodeFrame k c p)))) ∨ ∃ r, execTxFrame k c p s = .refused r := by
  by_cases hc : s.connected = true
  · obtain hp | hp := le_or_gt p.length Config.MAX_PAYLOAD
    · exact .inl ⟨hc, hp, execTxFrame_of_connected k c hc hp⟩
    · exact .inr ⟨.payloadTooLong, by simp [execTxFrame, hc, hp]⟩
  · exact .inr ⟨.notConnected, by simp [execTxFrame, hc]⟩

/-- The outcome is no fault, and a next state has the invariant. -/
def Sound : Outcome → Prop
  | .next t => BlockInv t
  | .fault _ => False
  | .refused _ => True

@[simp] theorem sound_next {t : State} : Sound (.next t) ↔ BlockInv t := Iff.rfl
@[simp] theorem sound_refused (r : Refusal) : Sound (.refused r) := trivial

theorem blockInv_powerOn : BlockInv State.powerOn :=
  ⟨fun _ => ⟨rfl, rfl, rfl, rfl, rfl, rfl, rfl, rfl, rfl, rfl⟩, fun h => by cases h⟩

theorem blockInv_reset : BlockInv State.reset :=
  .of_connected (d := .awaitPreamble) rfl ⟨[], [], rfl, rfl, by decide, by decide⟩ rfl trivial

theorem BlockInv.sound_rxByte {s : State} (h : BlockInv s) (b : Byte) : Sound (execRxByte b s) := by
  cases hc : s.connected with
  | false => rw [rxByte_of_not_connected hc]; exact sound_refused _
  | true =>
    obtain ⟨t, ht, -, hinv, -⟩ := h.receives (b := b) hc
    rw [ht, sound_next]; exact hinv

theorem BlockInv.sound_txFrame {s : State} (h : BlockInv s) (k c : Byte) (p : List Byte) :
    Sound (execTxFrame k c p s) := by
  obtain ⟨-, -, he⟩ | ⟨r, he⟩ := execTxFrame_cases k c p s
  · rw [he, sound_next]; exact h.of_sameBlock rfl
  · rw [he]; exact sound_refused r

/-- The four host operations are all a step can decode (R69). -/
theorem decodeHost_cases (w : HostWord) :
    decodeHost w = .rxByte w.b ∨ decodeHost w = .reset ∨ decodeHost w = .txFrame w.kind w.code w.payload ∨
      decodeHost w = .disconnect := by
  unfold decodeHost
  split
  · exact .inl rfl
  · split
    · exact .inr (.inl rfl)
    · split
      · exact .inr (.inr (.inl rfl))
      · exact .inr (.inr (.inr rfl))

theorem BlockInv.sound_exec {s : State} (h : BlockInv s) (w : HostWord) : Sound (exec (decodeHost w) s) := by
  obtain hw | hw | hw | hw := decodeHost_cases w <;> rw [hw]
  · exact h.sound_rxByte _
  · exact blockInv_reset.of_sameBlock (t := { State.reset with pending := s.pending }) rfl
  · exact h.sound_txFrame _ _ _
  · exact blockInv_powerOn.of_sameBlock (t := { State.powerOn with pending := s.pending }) rfl

/-- Whatever the host has issued, a step from a state with the invariant is sound. -/
theorem BlockInv.sound_step {s : State} (h : BlockInv s) : Sound (step s) := by
  unfold step
  cases hf : fetch s with
  | idle => exact sound_next.2 (h.of_sameBlock rfl)
  | overlapped => exact sound_refused _
  | word w t =>
    obtain ⟨i, rest, -, -, -, rfl⟩ := fetch_eq_word.1 hf
    have hi : BlockInv (s.setPending rest) := h.of_sameBlock rfl
    exact hi.sound_exec w

/-- Settles O36: every transition leads from the row of R28 of its state to the row of the next one. -/
theorem stepKeepsInvariant : Obligations.StepKeepsInvariant := by
  intro s t h ht
  have hsound := h.sound_step
  rwa [ht] at hsound

/-- Settles O38: a fault is no sound outcome. -/
theorem noFaultUnderInvariant : Obligations.NoFaultUnderInvariant := by
  intro s f h hf
  have hsound := h.sound_step
  rwa [hf] at hsound

/-- Settles O35: with no connection nothing holds a value, and `AwaitPreamble` asks for the two empty buffers only. -/
theorem invariantAtStart : Obligations.InvariantAtStart := ⟨blockInv_powerOn, blockInv_reset⟩

/-! ### The lifecycle -/

/-- Settles O21: `RESET` overwrites every element. -/
theorem connectLeavesResetValues : Obligations.ConnectLeavesResetValues := execReset_eq

/-- Settles O22: `DISCONNECT` overwrites every element. -/
theorem disconnectLeavesNoValue : Obligations.DisconnectLeavesNoValue := execDisconnect_eq

/-- Settles O23: the power-on column is the invariant's clause for an unconnected block. -/
theorem resetStateIsConnectFromPowerOn : Obligations.ResetStateIsConnectFromPowerOn :=
  ⟨rfl, blockInv_powerOn.1 rfl, execReset_eq State.powerOn⟩

/-! ### What an instruction writes -/

section frame
variable {row : Row} {b : Byte} {s t : State}

/-- The frame of each transition, read off its effect (R20). -/
theorem RowStep.kept (h : RowStep b s row t) :
    t.pending = s.pending ∧ ∀ e : Element, e ∉ writes (row.toInstr b) → e.same s t := by
  cases h <;> exact ⟨rfl, fun e he => by cases e <;> simp_all [writes, Row.toInstr, Element.same]⟩

theorem exec_row_kept (h : exec (row.toInstr b) s = .next t) :
    t.pending = s.pending ∧ ∀ e : Element, e ∉ writes (row.toInstr b) → e.same s t :=
  (RowStep.of_run ((runRow_eq_exec row b s).trans h)).kept

end frame

theorem writes_row_subset (row : Row) (b : Byte) : writes (row.toInstr b) ⊆ writes (.rxByte b) := by
  cases row <;> simp [writes, Row.toInstr]

theorem mem_allElements (e : Element) : e ∈ allElements := by cases e <;> decide

/-- Settles O34: the transitions by their effects, `RX_BYTE` by the transition it selects; `RESET` and `DISCONNECT` may write every
element, `TX_FRAME` writes none. -/
theorem unwrittenElementsKept : Obligations.UnwrittenElementsKept := by
  intro i s t h
  cases i with
  | preMatch => exact exec_row_kept (row := .preMatch) (b := 0#8) h
  | preSkip b => exact exec_row_kept (row := .preSkip) h
  | type b => exact exec_row_kept (row := .type) h
  | code b => exact exec_row_kept (row := .code) h
  | lenhi b => exact exec_row_kept (row := .lenhi) h
  | lenloZero b => exact exec_row_kept (row := .lenloZero) h
  | lenloNz b => exact exec_row_kept (row := .lenloNz) h
  | payMore b => exact exec_row_kept (row := .payMore) h
  | payLast b => exact exec_row_kept (row := .payLast) h
  | endOk => exact exec_row_kept (row := .endOk) (b := 0#8) h
  | endBad b => exact exec_row_kept (row := .endBad) h
  | crchi b => exact exec_row_kept (row := .crchi) h
  | crcloOk b => exact exec_row_kept (row := .crcloOk) h
  | crcloBad b => exact exec_row_kept (row := .crcloBad) h
  | rxByte b =>
    obtain ⟨-, -, -, r, -, -, -, hrun⟩ := rxByte_eq_next h
    obtain ⟨hpend, hkept⟩ := (RowStep.of_run hrun).kept
    exact ⟨hpend, fun e he => hkept e fun hr => he (writes_row_subset r b hr)⟩
  | reset => cases h; exact ⟨rfl, fun e he => absurd (mem_allElements e) he⟩
  | txFrame k c p =>
    obtain ⟨-, -, he⟩ | ⟨r, he⟩ := execTxFrame_cases k c p s
    · cases he.symm.trans h
      exact ⟨rfl, fun e _ => by cases e <;> rfl⟩
    · cases he.symm.trans h
  | disconnect => cases h; exact ⟨rfl, fun e he => absurd (mem_allElements e) he⟩

/-! ### A delivered frame -/

section delivery
variable {row : Row} {b : Byte} {s t : State} {d : DState}

/-- Only `CRCLO_OK` delivers, and it delivers the block's own elements (R113). -/
theorem RowStep.of_frameReady {k c : Byte} {p : List Byte} (h : RowStep b s row t) (ht : t.result = .frameReady k c p) :
    row = .crcloOk ∧ s.kind = some k ∧ s.code = some c ∧ s.payloadBytes = some p := by
  cases h with
  | crcloOk hk hcode hp => cases ht; exact ⟨rfl, hk, hcode, hp⟩
  | _ => cases ht

/-- `CRCLO_OK` is selected in `AwaitCrcLo` alone, where the CRC matches (R70). -/
theorem selectRow_eq_crcloOk {p : Bool} (h : selectRow (dispatchWord d.code b) p = some .crcloOk) :
    d = .awaitCrcLo ∧ p = true := by
  rw [selectRow_of_code, Option.some.injEq] at h
  cases d with
  | awaitCrcLo => cases p <;> simp at h ⊢
  | awaitPreamble => dsimp only at h; split at h <;> cases h
  | awaitLenLo => cases p <;> cases h
  | awaitPayload => cases p <;> cases h
  | awaitEndMark => dsimp only at h; split at h <;> cases h
  | _ => cases h

theorem flagCrcOk_eq_true (h : flagCrcOk b s = .ok true) :
    ∃ hi fb, s.crcHi = some hi ∧ s.frameBytes = some fb ∧ join hi b = crc16 fb := by
  cases hh : s.crcHi with
  | none => simp [flagCrcOk, hh] at h
  | some hi =>
    cases hf : s.frameBytes with
    | none => simp [flagCrcOk, hh, hf] at h
    | some fb =>
      rw [flagCrcOk_of_some hh hf] at h
      exact ⟨hi, fb, rfl, rfl, by simpa using h⟩

/-- An `RX_BYTE` that delivers took a matching low CRC byte in `AwaitCrcLo` and delivered the block's own elements (R113). -/
theorem rxByte_frameReady {k c : Byte} {p : List Byte} (h : execRxByte b s = .next t)
    (ht : t.result = .frameReady k c p) :
    s.connected = true ∧ s.isIn .awaitCrcLo ∧ s.kind = some k ∧ s.code = some c ∧ s.payloadBytes = some p ∧
      ∃ hi fb, s.crcHi = some hi ∧ s.frameBytes = some fb ∧ join hi b = crc16 fb := by
  obtain ⟨hc, d, q, row, hs, hq, hsel, hrun⟩ := rxByte_eq_next h
  obtain ⟨rfl, hk, hcode, hp⟩ := (RowStep.of_run hrun).of_frameReady ht
  obtain ⟨rfl, rfl⟩ := selectRow_eq_crcloOk hsel
  rw [statePredicate_of_code] at hq
  exact ⟨hc, hs, hk, hcode, hp, flagCrcOk_eq_true hq⟩

/-- The length field of a payload whose length is the number `n`. -/
theorem lenField_of_length {p : List Byte} {n : Word16} (h : p.length = n.toNat) : lenField p = n := by
  simp [lenField, h]

theorem State.holdsHeader.payloadBytes_eq {pb tail : List Byte} (hh : s.holdsHeader pb tail) :
    s.payloadBytes = some pb := by
  obtain ⟨_, _, _, _, -, -, -, -, -, hp, -⟩ := hh
  exact hp

/-- With the payload complete and the end mark received, the CRC input is the one the generator forms (R28, R80). -/
theorem State.holdsHeader.frameBytes_eq {pb : List Byte} {n : Word16} {k c : Byte}
    (hh : s.holdsHeader pb [Config.ENDMARK]) (hn : s.len = some n) (hlen : pb.length = n.toNat)
    (hk : s.kind = some k) (hcode : s.code = some c) : s.frameBytes = some (frameBody k c pb) := by
  obtain ⟨k', c', h, l, hk', hc', -, -, hjoin, -, hf⟩ := hh
  obtain rfl : k' = k := Option.some.inj (hk'.symm.trans hk)
  obtain rfl : c' = c := Option.some.inj (hc'.symm.trans hcode)
  obtain rfl : n = join h l := Option.some.inj (hn.symm.trans hjoin)
  simp [hf, frameBody, lenField_of_length hlen]

/-- A CRC input followed by the two bytes of its CRC is the wire frame after its preamble (R80, R62). -/
theorem encodeFrame_of_crc {k c hi lo : Byte} {p : List Byte} (h : join hi lo = crc16 (frameBody k c p)) :
    [Config.PREAMBLE] ++ frameBody k c p ++ [hi, lo] = encodeFrame k c p := by
  simp [encodeFrame, ← h]

/-- Settles O40: the row of R28 for `AwaitCrcLo` gives the CRC input, and the matching CRC the last two bytes. -/
theorem deliveredBytesAreEncoded : Obligations.DeliveredBytesAreEncoded := by
  intro s t b k c p hinv h ht
  obtain ⟨hc, hs, hk, hcode, hp, hi, fb, hhi, hf, hcrc⟩ := rxByte_frameReady h ht
  obtain ⟨⟨_, _, -, hp', -, hbound⟩, d, hd, hr⟩ := hinv.2 hc
  obtain rfl : d = .awaitCrcLo := DState.code_inj.1 (Option.some.inj (hd.symm.trans hs))
  obtain ⟨pb, n, hheader, hn, hlen, -⟩ := hr
  obtain rfl := Option.some.inj (hp.symm.trans hheader.payloadBytes_eq)
  obtain rfl := Option.some.inj (hp.symm.trans hp')
  obtain rfl := Option.some.inj (hf.symm.trans (hheader.frameBytes_eq hn hlen hk hcode))
  exact ⟨hbound, hi, _, hhi, hf, encodeFrame_of_crc hcrc⟩

end delivery

/-! ### Runs -/

section runs
variable {s t : State}

/-- A transition looks at the block only: with other operations waiting and another last result it has the same effect. -/
theorem RowStep.relabel {row : Row} {b : Byte} (h : RowStep b s row t) (ps : List Issue) (r : OpResult) :
    RowStep b { s with pending := ps, result := r } row { t with pending := ps } := by
  cases h with
  | preMatch => exact .preMatch
  | preSkip => exact .preSkip
  | type => exact .type
  | code hf => exact .code hf
  | lenhi hf => exact .lenhi hf
  | lenloZero hf hh => exact .lenloZero hf hh
  | lenloNz hf hh => exact .lenloNz hf hh
  | payMore hf hp => exact .payMore hf hp
  | payLast hf hp => exact .payLast hf hp
  | endOk hf => exact .endOk hf
  | endBad hf => exact .endBad hf
  | crchi => exact .crchi
  | crcloOk hk hcode hp => exact .crcloOk hk hcode hp
  | crcloBad => exact .crcloBad

/-- `RX_BYTE` runs the selected transition: the converse of `rxByte_eq_next`. -/
theorem rxByte_of_rowStep {b : Byte} {d : DState} {p : Bool} {row : Row} (hc : s.connected = true)
    (hs : s.state = some d.code) (hp : statePredicate d.code b s = .ok p)
    (hsel : selectRow (dispatchWord d.code b) p = some row) (h : RowStep b s row t) : execRxByte b s = .next t := by
  rw [rxByte_of_code hc hs, hp, withVal_ok, hsel, runSelected_some]
  exact h.run

/-- A host operation looks at the block only. -/
theorem exec_relabel {w : HostWord} (h : exec (decodeHost w) s = .next t) (ps : List Issue) (r : OpResult) :
    exec (decodeHost w) { s with pending := ps, result := r } = .next { t with pending := ps } := by
  obtain hw | hw | hw | hw := decodeHost_cases w <;> rw [hw] at h ⊢
  · obtain ⟨hc, d, p, row, hs, hp, hsel, hrun⟩ := rxByte_eq_next h
    exact rxByte_of_rowStep (d := d) hc hs hp hsel ((RowStep.of_run hrun).relabel ps r)
  · cases h; rfl
  · obtain ⟨hc, hp, he⟩ | ⟨f, he⟩ := execTxFrame_cases w.kind w.code w.payload s
    · cases he.symm.trans h
      exact execTxFrame_of_connected _ _ hc hp
    · cases he.symm.trans h
  · cases h; rfl

theorem exec_of_sameBlock {s' : State} {w : HostWord} (hst : s.sameBlock s') (h : exec (decodeHost w) s = .next t) :
    exec (decodeHost w) s' = .next { t with pending := s'.pending } := by
  have h' := exec_relabel h s'.pending s'.result
  rwa [show ({ s with pending := s'.pending, result := s'.result } : State) = s' from hst] at h'

/-- A run begins with the effect of its first operation. -/
theorem runOps_cons_of_next {w : HostWord} (h : exec (decodeHost w) s = .next t) (ws : List HostWord) :
    runOps (w :: ws) s = (runOps ws t).map fun x => (t.result :: x.1, x.2) := by
  have hstep : step (s.withOps (w :: ws)) = .next (t.withOps ws) := exec_relabel h (ws.map Issue.inTurn) s.result
  simp only [runOps, List.length_cons, trace, hstep]
  rfl

/-- A run that completes began with an operation that did. -/
theorem runOps_cons_eq_some {w : HostWord} {ws : List HostWord} {rs : List OpResult}
    (h : runOps (w :: ws) s = some (rs, t)) :
    ∃ u rs', exec (decodeHost w) s = .next u ∧ runOps ws u = some (rs', t) ∧ rs = u.result :: rs' := by
  cases hstep : step (s.withOps (w :: ws)) with
  | next u =>
    have hu : exec (decodeHost w) s = .next { u with pending := s.pending } :=
      exec_relabel (s := s.withOps ws) hstep s.pending s.result
    rw [runOps_cons_of_next hu, Option.map_eq_some_iff] at h
    obtain ⟨⟨rs', _⟩, hrun, ⟨⟩⟩ := h
    exact ⟨_, rs', hu, hrun, rfl⟩
  | fault f => simp [runOps, trace, hstep] at h
  | refused r => simp [runOps, trace, hstep] at h

/-- After operations that complete, further ones run from the state they left. -/
theorem runOps_append_of_some {ws : List HostWord} {rs : List OpResult} (h : runOps ws s = some (rs, t))
    (vs : List HostWord) : runOps (ws ++ vs) s = (runOps vs t).map fun x => (rs ++ x.1, x.2) := by
  induction ws generalizing s rs with
  | nil =>
    cases h
    exact Option.map_id'.symm
  | cons w ws ih =>
    obtain ⟨u, rs', hu, hrun, rfl⟩ := runOps_cons_eq_some h
    rw [List.cons_append, runOps_cons_of_next hu, ih hrun, Option.map_map]
    rfl

/-- `RESET` leaves one block, whatever it found (R33, R150). -/
theorem runOps_connect (ws : List HostWord) (s : State) :
    runOps (.connect :: ws) s = runOps (.connect :: ws) State.powerOn := by
  rw [runOps_cons_of_next (w := .connect) (execReset_eq s), runOps_cons_of_next (w := .connect) (execReset_eq .powerOn)]
  rfl

/-- Settles O48: the run splits at the `RESET`, and `RESET` forgets the state it starts from. -/
theorem runFromResetForgetsPast : Obligations.RunFromResetForgetsPast := by
  intro s t before after rs h
  rw [runOps_append_of_some h, runOps_connect]

end runs

/-! ### Transmitting while receiving -/

section traffic
variable {s s' t : State} {w : HostWord} {ws : List HostWord}

theorem decodeHost_of_isRx (h : w.isRx = true) : decodeHost w = .rxByte w.b := by
  have hop : w.op = 0b00#2 := by simpa [HostWord.isRx] using h
  simp [decodeHost, hop]

theorem decodeHost_of_isTraffic (ht : w.isTraffic = true) (h : w.isRx = false) :
    decodeHost w = .txFrame w.kind w.code w.payload ∧ w.payload.length ≤ Config.MAX_PAYLOAD := by
  have hop : w.op = 0b10#2 ∧ w.payload.length ≤ Config.MAX_PAYLOAD := by
    simpa [HostWord.isTraffic, show (w.op == 0b00#2) = false from h] using ht
  exact ⟨by simp [decodeHost, hop.1], hop.2⟩

@[simp] theorem isRx_bytes (bs : List Byte) : (OpResult.bytes bs).isRx = false := rfl

/-- From `s` the operations return the frames of their `TX_FRAME`s, and otherwise do what their `RX_BYTE`s alone do from `s'`. -/
def RunsApart (ws : List HostWord) (s s' : State) : Prop :=
  ∃ rs t rs' t', runOps ws s = some (rs, t) ∧ runOps (ws.filter HostWord.isRx) s' = some (rs', t') ∧
    rs.filter OpResult.isRx = rs' ∧
    rs.filter (fun r => !r.isRx) =
      (ws.filter fun w => !w.isRx).map (fun w => .bytes (encodeFrame w.kind w.code w.payload)) ∧
    t.sameBlock t'

theorem RunsApart.cons_rx (hw : w.isRx = true) (h : exec (decodeHost w) s = .next t)
    (h' : exec (decodeHost w) s' = .next { t with pending := s'.pending }) (hres : t.result.isRx = true)
    (hws : RunsApart ws t { t with pending := s'.pending }) : RunsApart (w :: ws) s s' := by
  obtain ⟨rs, u, rs', u', hrun, hrun', hrx, htx, hu⟩ := hws
  refine ⟨t.result :: rs, u, t.result :: rs', u', ?_, ?_, ?_, ?_, hu⟩
  · simp [runOps_cons_of_next h, hrun]
  · simp [hw, runOps_cons_of_next h', hrun']
  · simp [hres, hrx]
  · simp [hres, hw, htx]

theorem RunsApart.cons_tx (hw : w.isRx = false) (h : exec (decodeHost w) s = .next t)
    (hres : t.result = .bytes (encodeFrame w.kind w.code w.payload)) (hws : RunsApart ws t s') :
    RunsApart (w :: ws) s s' := by
  obtain ⟨rs, u, rs', u', hrun, hrun', hrx, htx, hu⟩ := hws
  refine ⟨t.result :: rs, u, rs', u', ?_, ?_, ?_, ?_, hu⟩
  · simp [runOps_cons_of_next h, hrun]
  · simpa [hw] using hrun'
  · simp [hres, hrx]
  · simp [hres, hw, htx]

/-- Traffic runs apart from any two blocks with the same elements. -/
theorem runsApart_of_isTraffic (hinv : BlockInv s) (hc : s.connected = true) (hst : s.sameBlock s')
    (hws : ∀ w ∈ ws, w.isTraffic = true) : RunsApart ws s s' := by
  induction ws generalizing s s' with
  | nil => exact ⟨[], s.withOps [], [], s'.withOps [], rfl, rfl, rfl, rfl, by rw [← hst]; rfl⟩
  | cons w ws ih =>
    obtain ⟨hw, hws⟩ := List.forall_mem_cons.1 hws
    cases hrx : w.isRx with
    | true =>
      obtain ⟨t, ht, hct, hit, hres⟩ := hinv.receives (b := w.b) hc
      have h : exec (decodeHost w) s = .next t := by rw [decodeHost_of_isRx hrx]; exact ht
      exact .cons_rx hrx h (exec_of_sameBlock hst h) hres (ih hit hct rfl hws)
    | false =>
      obtain ⟨hdec, hlen⟩ := decodeHost_of_isTraffic hw hrx
      have h : exec (decodeHost w) s = .next (s.ret (.bytes (encodeFrame w.kind w.code w.payload))) := by
        rw [hdec]; exact execTxFrame_of_connected _ _ hc hlen
      exact .cons_tx hrx h rfl (ih (hinv.of_sameBlock rfl) hc hst hws)

/-- Settles O45: by induction on the operations, an `RX_BYTE` moves both runs alike and a `TX_FRAME` changes no element. -/
theorem transmitAndReceiveIndependent : Obligations.TransmitAndReceiveIndependent :=
  fun _ _ hinv hc hws => runsApart_of_isTraffic hinv hc rfl hws

end traffic

/-! ### Reads of elements without a value -/

section noValue
variable {b : Byte} {s : State}

theorem execCode_of_none (hf : s.frameBytes = none) : execCode b s = .fault (.noValue .frameBytes) := by
  simp [execCode, appendFrame, hf]

theorem execLenhi_of_none (hf : s.frameBytes = none) : execLenhi b s = .fault (.noValue .frameBytes) := by
  simp [execLenhi, appendFrame, hf]

theorem takeLenLo_of_none (hf : s.frameBytes = none) : takeLenLo b s = .fault (.noValue .frameBytes) := by
  simp [takeLenLo, appendFrame, hf]

theorem takePayload_of_none {pb : List Byte} (hp : s.payloadBytes = some pb) (hf : s.frameBytes = none) :
    takePayload b s = .fault (.noValue .frameBytes) := by
  simp [takePayload, appendPayload, appendFrame, hp, hf]

theorem execEndOk_of_none (hf : s.frameBytes = none) : execEndOk s = .fault (.noValue .frameBytes) := by
  simp [execEndOk, appendFrame, hf]

theorem execEndBad_of_none (hf : s.frameBytes = none) : execEndBad b s = .fault (.noValue .frameBytes) := by
  simp [execEndBad, appendFrame, hf]

section connected
variable (hc : s.connected = true)
include hc

theorem rxByte_of_no_state (hs : s.state = none) : execRxByte b s = .fault (.noValue .state) := by
  simp [execRxByte, hc, hs]

/-- A predicate that reads a missing value stops the `RX_BYTE`. -/
theorem rxByte_of_predicate_error {d : DState} {f : Fault} (hs : s.isIn d)
    (hp : statePredicate d.code b s = .error f) : execRxByte b s = .fault f := by
  rw [rxByte_of_code hc hs, hp, withVal_error]

theorem rxByte_of_no_frameBytes (hs : s.isIn .awaitCode ∨ s.isIn .awaitLenHi ∨ s.isIn .awaitEndMark)
    (hf : s.frameBytes = none) : execRxByte b s = .fault (.noValue .frameBytes) := by
  obtain hs | hs | hs := hs
  · rw [rxByte_awaitCode hc hs, execCode_of_none hf]
  · rw [rxByte_awaitLenHi hc hs, execLenhi_of_none hf]
  · rw [rxByte_awaitEndMark hc hs, execEndOk_of_none hf, execEndBad_of_none hf, ite_self]

theorem rxByte_awaitLenLo_of_none (hs : s.isIn .awaitLenLo) :
    (s.lenHi = none → execRxByte b s = .fault (.noValue .lenHi)) ∧
    (s.lenHi ≠ none → s.frameBytes = none → execRxByte b s = .fault (.noValue .frameBytes)) := by
  refine ⟨fun hh => rxByte_of_predicate_error hc hs ?_, fun hh hf => ?_⟩
  · simp [statePredicate_of_code, flagLenZero, hh]
  · obtain ⟨h, hh⟩ := Option.ne_none_iff_exists'.1 hh
    rw [rxByte_awaitLenLo hc hs hh, execLenloZero, execLenloNz, takeLenLo_of_none hf, seq_fault, seq_fault, ite_self]

theorem rxByte_awaitPayload_of_none (hs : s.isIn .awaitPayload) :
    (s.payloadBytes = none → execRxByte b s = .fault (.noValue .payloadBytes)) ∧
    (s.payloadBytes ≠ none → s.len = none → execRxByte b s = .fault (.noValue .len)) ∧
    (s.payloadBytes ≠ none → s.len ≠ none → s.frameBytes = none →
      execRxByte b s = .fault (.noValue .frameBytes)) := by
  refine ⟨fun hp => rxByte_of_predicate_error hc hs ?_, fun hp hn => rxByte_of_predicate_error hc hs ?_,
    fun hp hn hf => ?_⟩
  · simp [statePredicate_of_code, flagPayLast, hp]
  · obtain ⟨pb, hp⟩ := Option.ne_none_iff_exists'.1 hp
    simp [statePredicate_of_code, flagPayLast, hp, hn]
  · obtain ⟨pb, hp⟩ := Option.ne_none_iff_exists'.1 hp
    obtain ⟨n, hn⟩ := Option.ne_none_iff_exists'.1 hn
    rw [rxByte_awaitPayload hc hs hp hn, execPayLast, execPayMore, takePayload_of_none hp hf, seq_fault, seq_fault,
      ite_self]

theorem rxByte_awaitCrcLo_of_none (hs : s.isIn .awaitCrcLo) :
    (s.crcHi = none → execRxByte b s = .fault (.noValue .crcHi)) ∧
    (s.crcHi ≠ none → s.frameBytes = none → execRxByte b s = .fault (.noValue .frameBytes)) := by
  refine ⟨fun hh => rxByte_of_predicate_error hc hs ?_, fun hh hf => rxByte_of_predicate_error hc hs ?_⟩
  · simp [statePredicate_of_code, flagCrcOk, hh]
  · obtain ⟨h, hh⟩ := Option.ne_none_iff_exists'.1 hh
    simp [statePredicate_of_code, flagCrcOk, hh, hf]

end connected

/-- The order in which a delivery reads its three elements (log entry 14). -/
theorem execCrcloOk_of_none :
    (s.kind = none → execCrcloOk b s = .fault (.noValue .kind)) ∧
    (s.kind ≠ none → s.code = none → execCrcloOk b s = .fault (.noValue .code)) ∧
    (s.kind ≠ none → s.code ≠ none → s.payloadBytes = none → execCrcloOk b s = .fault (.noValue .payloadBytes)) := by
  refine ⟨fun hk => ?_, fun hk hcode => ?_, fun hk hcode hp => ?_⟩
  · simp [execCrcloOk, hk]
  · obtain ⟨k, hk⟩ := Option.ne_none_iff_exists'.1 hk
    simp [execCrcloOk, hk, hcode]
  · obtain ⟨k, hk⟩ := Option.ne_none_iff_exists'.1 hk
    obtain ⟨c, hcode⟩ := Option.ne_none_iff_exists'.1 hcode
    simp [execCrcloOk, hk, hcode, hp]

/-- Settles O28, one decoder state at a time. -/
theorem readWithoutValueFaults : Obligations.ReadWithoutValueFaults := by
  intro s b hc
  refine ⟨rxByte_of_no_state hc, rxByte_of_no_frameBytes hc, rxByte_awaitLenLo_of_none hc,
    rxByte_awaitPayload_of_none hc, fun hs => ?_⟩
  obtain ⟨hno, hno'⟩ := rxByte_awaitCrcLo_of_none (b := b) hc hs
  refine ⟨hno, hno', fun h fb hh hf hcrc => ?_⟩
  have hrun : exec (.rxByte b) s = execCrcloOk b s := (rxByte_awaitCrcLo hc hs hh hf).trans (if_pos hcrc)
  rw [hrun]
  exact execCrcloOk_of_none

end noValue

end Sys2Proof.Machine
end

section
/-!
PROOFS. The memory family (20_memory.md): a step is one whole operation, the next one issued, and the lifecycle operations are
idempotent.
-/

namespace Sys2Proof.Machine

/-- An operation issued in its turn runs on the state it no longer waits in (R46, R48). -/
theorem step_inTurn {s : State} {w : HostWord} {rest : List Issue} (h : s.pending = Issue.inTurn w :: rest) :
    step s = exec (decodeHost w) (s.setPending rest) := by
  rw [step, fetch_inTurn h]

/-- A host word is always decoded, by its operation field (R69). -/
theorem decode_host_eq_ok {w : HostWord} {i : Instr} : decode (.host w) = .ok i ↔ decodeHost w = i :=
  ⟨Except.ok.inj, congrArg Except.ok⟩

/-- Settles O5: the step fetches the operation issued next and decodes it as `decode` does. -/
theorem stepRunsDecodedOperation : Obligations.StepRunsDecodedOperation := by
  intro s w rest i hpending hdecode
  rw [step_inTurn hpending, decode_host_eq_ok.1 hdecode]
  rfl

/-- Settles O24: the state either operation leaves depends only on the operations still waiting, and it keeps those. -/
theorem lifecycleIsIdempotent : Obligations.LifecycleIsIdempotent := fun s =>
  ⟨⟨_, execReset_eq s, execReset_eq { State.reset with pending := s.pending }⟩,
    ⟨_, execDisconnect_eq s, execDisconnect_eq { State.powerOn with pending := s.pending }⟩⟩

end Sys2Proof.Machine
end

section
/-!
PROOFS. The encoding family (30_encoding.md): when the table selects a row, decode against encode, placed words, the wire layout of
an encoded frame, the pseudo-operations for it, and what a delivery took.
-/

namespace Sys2Proof

/-! ### The rows, one by one -/

/-- The decoder state whose dispatch words a row takes (R70). -/
def Row.source : Row → DState
  | .preMatch => .awaitPreamble
  | .preSkip => .awaitPreamble
  | .type => .awaitType
  | .code => .awaitCode
  | .lenhi => .awaitLenHi
  | .lenloZero => .awaitLenLo
  | .lenloNz => .awaitLenLo
  | .payMore => .awaitPayload
  | .payLast => .awaitPayload
  | .endOk => .awaitEndMark
  | .endBad => .awaitEndMark
  | .crchi => .awaitCrcHi
  | .crcloOk => .awaitCrcLo
  | .crcloBad => .awaitCrcLo

/-- What a row asks of the received byte (R70). -/
def Row.takes (b : Byte) : Row → Prop
  | .preMatch => b = Config.PREAMBLE
  | .preSkip => b ≠ Config.PREAMBLE
  | .endOk => b = Config.ENDMARK
  | .endBad => b ≠ Config.ENDMARK
  | _ => True

/-- What a row asks of its state's predicate (R68). -/
def Row.cond : Row → Cond
  | .lenloZero => .holds
  | .lenloNz => .fails
  | .payMore => .fails
  | .payLast => .holds
  | .crcloOk => .holds
  | .crcloBad => .fails
  | _ => .always

/-- The row selected in decoder state `d` is the one row of that state whose conditions are met (R70). -/
theorem selectRow_of_code_eq_some {d : DState} {b : Byte} {p : Bool} {row : Row} :
    selectRow (dispatchWord d.code b) p = some row ↔ d = row.source ∧ row.takes b ∧ row.cond.met p = true := by
  rw [selectRow_of_code, Option.some.injEq]
  cases d with
  | awaitPreamble => by_cases h : b = Config.PREAMBLE <;> cases row <;> simp [Row.source, Row.takes, Row.cond, Cond.met, h]
  | awaitEndMark => by_cases h : b = Config.ENDMARK <;> cases row <;> simp [Row.source, Row.takes, Row.cond, Cond.met, h]
  | awaitLenLo => cases p <;> cases row <;> simp [Row.source, Row.takes, Row.cond, Cond.met]
  | awaitPayload => cases p <;> cases row <;> simp [Row.source, Row.takes, Row.cond, Cond.met]
  | awaitCrcLo => cases p <;> cases row <;> simp [Row.source, Row.takes, Row.cond, Cond.met]
  | _ => cases row <;> simp [Row.source, Row.takes, Row.cond, Cond.met]

/-- When the table selects a row: the word has the row's state code and a byte the row takes, and the predicate is as the row
asks (R67, R70). -/
theorem selectRow_eq_some {w : DispatchWord} {p : Bool} {row : Row} : selectRow w p = some row ↔
    DispatchWord.stateField w = row.source.code ∧ row.takes (DispatchWord.byteField w) ∧ row.cond.met p = true := by
  obtain ⟨d, hd⟩ | hlt := stateCode_cases (DispatchWord.stateField w)
  · rw [hd, DState.code_inj, ← selectRow_of_code_eq_some, ← hd, dispatchWord_fields]
  · have hnone : selectRow w p = none := by
      rw [← dispatchWord_fields w, selectRow_of_lastCode_lt hlt]
    have hne : DispatchWord.stateField w ≠ row.source.code := fun h => not_lastCode_lt _ (h ▸ hlt)
    simp [hnone, hne]

/-- A dispatch word decodes to the selected row on its byte, where that is well formed (R67, R70). -/
theorem decode_dispatch_eq_ok {w : DispatchWord} {p : Bool} {i : Instr} :
    decode (.dispatch w p) = .ok i ↔
      ∃ row, selectRow w p = some row ∧ row.toInstr (DispatchWord.byteField w) = i ∧ i.wf = true := by
  cases hsel : selectRow w p with
  | none => simp [decode, hsel]
  | some row =>
    simp only [decode, hsel, Option.some.injEq, exists_eq_left']
    split
    · rename_i hwf
      exact ⟨fun h => ⟨Except.ok.inj h, Except.ok.inj h ▸ hwf⟩, fun h => congrArg _ h.1⟩
    · rename_i hwf
      exact ⟨nofun, fun ⟨h, h'⟩ => absurd (h ▸ h') hwf⟩

/-- The encoding of a row on a byte it takes: the dispatch word of the row's state and that byte, under a value of the predicate
that meets the row's condition (R67, R70). -/
theorem encode_toInstr {row : Row} {b : Byte} (hb : row.takes b) :
    encode (row.toInstr b) = .dispatch (dispatchWord row.source.code b) (row.cond == .holds) := by
  cases row with
  | preMatch => cases hb; rfl
  | endOk => cases hb; rfl
  | _ => rfl

theorem Cond.met_beq_holds (c : Cond) : c.met (c == .holds) = true := by cases c <;> rfl

/-- A well-formed row instruction is read back from its encoding. -/
theorem decode_encode_toInstr {row : Row} {b : Byte} (hb : row.takes b) (hwf : (row.toInstr b).wf = true) :
    decode (encode (row.toInstr b)) = .ok (row.toInstr b) := by
  rw [encode_toInstr hb, decode_dispatch_eq_ok]
  refine ⟨row, selectRow_of_code_eq_some.2 ⟨rfl, hb, row.cond.met_beq_holds⟩, ?_, hwf⟩
  rw [byteField_dispatchWord]

/-- Settles O2: a transition is read back by its row, a host operation by its `op` field. -/
theorem decodeUndoesEncode : Obligations.DecodeUndoesEncode := by
  intro i hwf
  cases i with
  | preMatch => exact decode_encode_toInstr (row := .preMatch) rfl hwf
  | preSkip b => exact decode_encode_toInstr (row := .preSkip) (bne_iff_ne.1 hwf) hwf
  | type b => exact decode_encode_toInstr (row := .type) trivial hwf
  | code b => exact decode_encode_toInstr (row := .code) trivial hwf
  | lenhi b => exact decode_encode_toInstr (row := .lenhi) trivial hwf
  | lenloZero b => exact decode_encode_toInstr (row := .lenloZero) trivial hwf
  | lenloNz b => exact decode_encode_toInstr (row := .lenloNz) trivial hwf
  | payMore b => exact decode_encode_toInstr (row := .payMore) trivial hwf
  | payLast b => exact decode_encode_toInstr (row := .payLast) trivial hwf
  | endOk => exact decode_encode_toInstr (row := .endOk) rfl hwf
  | endBad b => exact decode_encode_toInstr (row := .endBad) (bne_iff_ne.1 hwf) hwf
  | crchi b => exact decode_encode_toInstr (row := .crchi) trivial hwf
  | crcloOk b => exact decode_encode_toInstr (row := .crcloOk) trivial hwf
  | crcloBad b => exact decode_encode_toInstr (row := .crcloBad) trivial hwf
  | rxByte b => rfl
  | reset => rfl
  | txFrame k c p => rfl
  | disconnect => rfl

/-- Settles O3: the selected row is the one of the word's state, and takes the word's byte. -/
theorem dispatchDecodeIsSound : Obligations.DispatchDecodeIsSound := by
  intro w p i h
  obtain ⟨row, hrow, rfl, hwf⟩ := decode_dispatch_eq_ok.1 h
  obtain ⟨hc, hb, -⟩ := selectRow_eq_some.1 hrow
  refine ⟨hwf, row.cond == .holds, ?_⟩
  rw [encode_toInstr hb, ← hc, dispatchWord_fields]

/-! ### The winning row -/

section winners
variable {w : DispatchWord} {p : Bool} {e f : RowEntry}

/-- The selected row is the first winner. -/
theorem selectRow_eq_winners (w : DispatchWord) (p : Bool) : selectRow w p = (winners w p).head?.map RowEntry.row := by
  rw [selectRow, winners, List.head?_filter]

theorem winners_of_hits_singleton (h : hits w p = [e]) : winners w p = [e] := by
  simp [winners, h]

theorem winners_of_hits_pair (h : hits w p = [e, f]) (hlt : e.priority < f.priority) : winners w p = [e] := by
  simp [winners, h, hlt.le, hlt]

/-- In every decoder state one row wins: the one row that applies, or the fixed byte's before the other's. -/
theorem winners_of_code (d : DState) (b : Byte) (p : Bool) : ∃ e, winners (dispatchWord d.code b) p = [e] := by
  have h := hits_of_code d b p
  cases d with
  | awaitPreamble =>
    by_cases hb : b = Config.PREAMBLE
    · exact ⟨_, winners_of_hits_pair (h.trans (by rw [if_pos hb]; rfl)) (by decide)⟩
    · exact ⟨_, winners_of_hits_singleton (h.trans (by rw [if_neg hb]; rfl))⟩
  | awaitEndMark =>
    by_cases hb : b = Config.ENDMARK
    · exact ⟨_, winners_of_hits_pair (h.trans (by rw [if_pos hb]; rfl)) (by decide)⟩
    · exact ⟨_, winners_of_hits_singleton (h.trans (by rw [if_neg hb]; rfl))⟩
  | _ => exact ⟨_, winners_of_hits_singleton h⟩

end winners

/-- Settles O4: the codes up to 8 are the nine decoder states', and no row applies to the others. -/
theorem exactlyOneRowWins : Obligations.ExactlyOneRowWins := by
  intro w p
  obtain ⟨d, hd⟩ | hlt := stateCode_cases (DispatchWord.stateField w)
  · obtain ⟨e, he⟩ := winners_of_code d (DispatchWord.byteField w) p
    rw [← hd, dispatchWord_fields] at he
    refine ⟨fun _ => ⟨e, he, ?_⟩, fun hlt => absurd (hd ▸ hlt) (not_lastCode_lt d)⟩
    rw [selectRow_eq_winners, he]
    rfl
  · have hnone := hits_of_lastCode_lt hlt (DispatchWord.byteField w) p
    rw [dispatchWord_fields] at hnone
    refine ⟨fun hle => absurd hlt (BitVec.not_lt.2 hle), fun _ => ⟨hnone, ?_⟩⟩
    simp [selectRow, hnone]

end Sys2Proof

namespace Sys2Proof.Machine

/-! ### Placed words -/

section placed
variable {b : Byte} {s : State} {d : DState} {v : DispatchWord} {i : Instr}

/-- An operation issued next runs on the state as it was. -/
theorem step_issueNext (w : HostWord) (s : State) : step (issueNext w s) = exec (decodeHost w) s :=
  step_inTurn rfl

/-- Preparing a block for its predicate leaves the connection, the state register and what the host has issued. -/
theorem primeFor_kept (c : StateCode) (s : State) :
    (primeFor c s).connected = s.connected ∧ (primeFor c s).state = s.state ∧ (primeFor c s).pending = s.pending := by
  unfold primeFor
  split_ifs <;> exact ⟨rfl, rfl, rfl⟩

/-- The block `placeDispatch` makes before it issues the byte of the word. -/
def prepared (v : DispatchWord) (s : State) : State :=
  primeFor (DispatchWord.stateField v) { s with connected := true, state := some (DispatchWord.stateField v) }

theorem placeDispatch_eq (v : DispatchWord) (s : State) :
    placeDispatch v s = issueNext (.rx (DispatchWord.byteField v)) (prepared v s) := rfl

theorem prepared_kept (v : DispatchWord) (s : State) :
    (prepared v s).connected = true ∧ (prepared v s).state = some (DispatchWord.stateField v) ∧
      (prepared v s).pending = s.pending := primeFor_kept _ _

/-- Taking back the byte issued next leaves the prepared block. -/
theorem placeDispatch_withdrawn (v : DispatchWord) (s : State) :
    { placeDispatch v s with pending := s.pending } = prepared v s := by
  obtain ⟨-, -, hpend⟩ := prepared_kept v s
  rw [placeDispatch_eq, ← hpend]
  rfl

/-- The value a bare dispatch word gives the predicate of its state (log entry 10). -/
theorem barePredicate_of_code (d : DState) (b : Byte) :
    barePredicate (dispatchWord d.code b) = match d with
      | .awaitLenLo => b == 0#8
      | .awaitPayload => true
      | _ => false := by
  simp only [barePredicate, stateField_dispatchWord, byteField_dispatchWord]
  cases d <;> rfl

/-- No byte is its own complement: bit 0 differs. -/
theorem complement_ne_self (x : Byte) : ~~~ x ≠ x := by
  intro h
  have h0 := congrArg (fun y : Byte => y.getLsbD 0) h
  simp at h0

/-- Preparing a block makes the predicate of its state what a bare dispatch word is read with. -/
theorem statePredicate_primeFor (d : DState) (b : Byte) (s : State) :
    statePredicate d.code b (primeFor d.code s) = .ok (barePredicate (dispatchWord d.code b)) := by
  rw [statePredicate_of_code, barePredicate_of_code]
  cases d with
  | awaitLenLo => exact flagLenZero_of_some (h := 0#8) rfl
  | awaitPayload => exact flagPayLast_of_some (pb := []) (n := 1#16) rfl rfl
  | awaitCrcLo =>
    refine (flagCrcOk_of_some rfl rfl).trans (congrArg _ (beq_eq_false_iff_ne.2 fun h => ?_))
    exact complement_ne_self _ ((hiByte_join _ b).symm.trans (congrArg hiByte h))
  | _ => rfl

theorem statePredicate_prepared (hd : DispatchWord.stateField v = d.code) (b : Byte) (s : State) :
    statePredicate d.code b (prepared v s) = .ok (barePredicate (dispatchWord d.code b)) := by
  rw [prepared, hd, statePredicate_primeFor]

/-- `RX_BYTE` runs the instruction its dispatch word decodes to under the predicate's value in the block (R100). -/
theorem rxByte_of_decode {p : Bool} (hc : s.connected = true) (hs : s.state = some d.code)
    (hp : statePredicate d.code b s = .ok p) (hi : decode (.dispatch (dispatchWord d.code b) p) = .ok i) :
    execRxByte b s = exec i s := by
  obtain ⟨row, hrow, rfl, -⟩ := decode_dispatch_eq_ok.1 hi
  rw [rxByte_of_code hc hs, hp, withVal_ok, hrow, runSelected_some, runRow_eq_exec, byteField_dispatchWord]

/-- A placed dispatch word that decodes runs its row on the prepared block. -/
theorem step_placeDispatch (h : decode (.dispatch v (barePredicate v)) = .ok i) (s : State) :
    step (placeDispatch v s) = exec i { placeDispatch v s with pending := s.pending } := by
  obtain ⟨row, hrow, -⟩ := decode_dispatch_eq_ok.1 h
  obtain ⟨hcode, -⟩ := selectRow_eq_some.1 hrow
  obtain ⟨hconn, hstate, -⟩ := prepared_kept v s
  rw [← dispatchWord_fields v, hcode] at h
  rw [placeDispatch_withdrawn, placeDispatch_eq, step_issueNext]
  exact rxByte_of_decode hconn (hstate.trans (congrArg some hcode)) (statePredicate_prepared hcode _ s) h

theorem except_toOption_eq_some {ε α : Type} {x : Except ε α} {a : α} : x.toOption = some a ↔ x = .ok a := by
  cases x <;> simp [Except.toOption]

end placed

/-- Settles O7: a host operation is decoded as it was issued; a dispatch word is the one the next `RX_BYTE` forms, with the
predicate it was read under. -/
theorem placedWordRunsNext : Obligations.PlacedWordRunsNext := by
  intro s w i
  refine ⟨fun h => ?_, fun h => ?_⟩
  · rw [← decode_host_eq_ok.1 (except_toOption_eq_some.1 h)]
    exact step_issueNext _ s
  · exact step_placeDispatch (except_toOption_eq_some.1 h) s

/-! ### Encoded frames -/

/-- The wire frame of R60, element by element. -/
theorem encodeFrame_eq_cons (k c : Byte) (p : List Byte) :
    encodeFrame k c p = Config.PREAMBLE :: k :: c :: hiByte (lenField p) :: loByte (lenField p) ::
      (p ++ [Config.ENDMARK, hiByte (crc16 (frameBody k c p)), loByte (crc16 (frameBody k c p))]) := by
  simp [encodeFrame, frameBody]

theorem length_frameBody (k c : Byte) (p : List Byte) : (frameBody k c p).length = 5 + p.length := by
  simp only [frameBody, List.length_append, List.length_cons, List.length_nil]
  omega

/-- The bytes 1 to 5 + L of a frame are the ones its CRC covers (R60, R65). -/
theorem encodeFrame_crcInput (k c : Byte) (p : List Byte) :
    ((encodeFrame k c p).drop 1).take (5 + p.length) = frameBody k c p :=
  List.take_left' (length_frameBody k c p)

theorem getElem?_encodeFrame_of_lt {j : Nat} {p : List Byte} (k c : Byte) (h : j < p.length) :
    (encodeFrame k c p)[5 + j]? = p[j]? := by
  rw [encodeFrame_eq_cons, Nat.add_comm 5 j]
  exact List.getElem?_append_left h

theorem getElem?_encodeFrame_trailer (k c : Byte) (p : List Byte) (j : Nat) :
    (encodeFrame k c p)[5 + (p.length + j)]? =
      [Config.ENDMARK, hiByte (crc16 (frameBody k c p)), loByte (crc16 (frameBody k c p))][j]? := by
  rw [encodeFrame_eq_cons, Nat.add_comm 5]
  refine (List.getElem?_append_right (Nat.le_add_right _ _)).trans ?_
  rw [Nat.add_sub_cancel_left]

/-- Settles O25: the frame is the header, the payload and the trailer, and its CRC input is what lies between preamble and CRC. -/
theorem txFrameHasWireLayout : Obligations.TxFrameHasWireLayout := by
  intro s k c p hc hp
  have hlength : (encodeFrame k c p).length = 8 + p.length := by
    simp only [encodeFrame_eq_cons, List.length_cons, List.length_append, List.length_nil]
    omega
  have htrailer := getElem?_encodeFrame_trailer k c p
  refine ⟨encodeFrame k c p, execTxFrame_of_connected k c hc hp, hlength, rfl, rfl, rfl, rfl, rfl,
    fun j hj => getElem?_encodeFrame_of_lt k c hj, htrailer 0, ?_, ?_⟩
  · rw [encodeFrame_crcInput, show 6 + p.length = 5 + (p.length + 1) by omega]
    exact htrailer 1
  · rw [encodeFrame_crcInput, show 7 + p.length = 5 + (p.length + 2) by omega]
    exact htrailer 2

/-! ### The length field -/

/-- Settles O33: the appended bytes are the shifted high byte and the low byte, with no bit in common. -/
theorem lengthAssembly : Obligations.LengthAssembly := by
  intro h l
  have hnat : (join h l).toNat = 256 * h.toNat + l.toNat := by
    rw [join, BitVec.toNat_append, ← Nat.shiftLeft_add_eq_or_of_lt l.isLt, Nat.shiftLeft_eq, Nat.mul_comm]
  refine ⟨?_, hnat⟩
  rw [join, BitVec.append_def, BitVec.shiftLeftZeroExtend_eq, BitVec.setWidth'_eq]

/-! ### The frame pseudo-operations -/

/-- Masking the last byte of a sequence that has one. -/
theorem xorLast_append_singleton (m b : Byte) (bs : List Byte) : xorLast m (bs ++ [b]) = bs ++ [b ^^^ m] := by
  induction bs with
  | nil => rfl
  | cons a bs ih => cases bs with
    | nil => rfl
    | cons a' bs => exact congrArg (a :: ·) ih

theorem xorLast_encodeFrame (m k c : Byte) (p : List Byte) :
    xorLast m (encodeFrame k c p) = [Config.PREAMBLE] ++ frameBody k c p ++
      [hiByte (crc16 (frameBody k c p)), loByte (crc16 (frameBody k c p)) ^^^ m] := by
  rw [encodeFrame, List.append_cons, xorLast_append_singleton, ← List.append_cons]

/-- Settles O51: the payload is within the bound and the mask is not 0, so neither line is refused. -/
theorem framePseudoOperationsExpand : Obligations.FramePseudoOperationsExpand := by
  intro k c m p hp hm
  have hle : ¬ Config.MAX_PAYLOAD < p.length := Nat.not_lt.2 hp
  refine ⟨if_neg hle, ?_⟩
  rw [← xorLast_encodeFrame]
  exact if_neg (not_or.2 ⟨hle, hm⟩)

/-! ### Delivery by a step -/

section delivers
variable {s t : State} {k c : Byte} {p : List Byte}

theorem fetch_eq_idle : fetch s = .idle ↔ s.pending = [] := by
  refine ⟨fun h => ?_, fetch_of_nil⟩
  cases hp : s.pending with
  | nil => rfl
  | cons i rest => cases ho : i.overlaps <;> simp [fetch, hp, ho] at h

/-- What a step that answers a next state did: nothing but return no result, or the operation issued next (R46, R48). -/
theorem step_eq_next (h : step s = .next t) :
    (s.pending = [] ∧ t = s.ret .none) ∨
      ∃ i rest, s.pending = i :: rest ∧ i.overlaps = false ∧ exec (decodeHost i.word) (s.setPending rest) = .next t := by
  unfold step at h
  cases hf : fetch s with
  | idle =>
    rw [hf] at h
    cases h
    exact .inl ⟨fetch_eq_idle.1 hf, rfl⟩
  | overlapped => simp [hf] at h
  | word w u =>
    obtain ⟨i, rest, hpend, hover, rfl, rfl⟩ := fetch_eq_word.1 hf
    rw [hf] at h
    exact .inr ⟨i, rest, hpend, hover, h⟩

/-- Of the host operations only `RX_BYTE` delivers (R15). -/
theorem decodeHost_of_frameReady {w : HostWord} (h : exec (decodeHost w) s = .next t)
    (ht : t.result = .frameReady k c p) : decodeHost w = .rxByte w.b := by
  obtain hw | hw | hw | hw := decodeHost_cases w
  · exact hw
  · rw [hw] at h; cases h; cases ht
  · rw [hw] at h
    obtain ⟨-, -, he⟩ | ⟨r, he⟩ := execTxFrame_cases w.kind w.code w.payload s
    · cases he.symm.trans h; cases ht
    · cases he.symm.trans h
  · rw [hw] at h; cases h; cases ht

/-- A delivery ends between frames (R113). -/
theorem rxByte_frameReady_isIn {b : Byte} (h : execRxByte b s = .next t) (ht : t.result = .frameReady k c p) :
    t.isIn .awaitPreamble := by
  obtain ⟨-, -, -, row, -, -, -, hrun⟩ := rxByte_eq_next h
  cases RowStep.of_run hrun with
  | crcloOk => rfl
  | _ => cases ht

end delivers

/-- Settles O39: the step ran an operation, the operation was an `RX_BYTE`, and its transition `CRCLO_OK`. -/
theorem onlyCheckedFramesDelivered : Obligations.OnlyCheckedFramesDelivered := by
  intro s t k c p h ht
  obtain ⟨-, rfl⟩ | ⟨i, rest, hpend, -, hexec⟩ := step_eq_next h
  · cases ht
  · have hrx := decodeHost_of_frameReady hexec ht
    rw [hrx] at hexec
    obtain ⟨hc, hs, hk, hcode, hp, hi, fb, hhi, hf, hcrc⟩ := rxByte_frameReady hexec ht
    exact ⟨hc, hs, rxByte_frameReady_isIn hexec ht, hk, hcode, hp, i, rest, hi, fb, hpend, hrx, hhi, hf, hcrc⟩

/-! ### Words written out -/

/-- Settles O1: each word is the encoding of its instruction, and no row applies to the state code 9. -/
theorem specWordsDecode : Obligations.SpecWordsDecode :=
  ⟨decodeUndoesEncode .preMatch rfl, decodeUndoesEncode (.preSkip 0x7E#8) rfl, decodeUndoesEncode (.type 0xBB#8) rfl,
    decodeUndoesEncode (.lenloZero 0x00#8) rfl, decodeUndoesEncode (.lenloNz 0x00#8) rfl,
    decodeUndoesEncode (.payLast 0x7E#8) rfl, decodeUndoesEncode .endOk rfl, decodeUndoesEncode (.endBad 0xBB#8) rfl,
    decodeUndoesEncode (.crcloOk 0xAB#8) rfl, by decide, rfl, rfl, rfl, rfl⟩

end Sys2Proof.Machine

end

section
/-!
PROOFS. The encoder family (40_encoder.md): a frame after its preamble has CRC 0, and payload bytes are taken as they are.
-/

namespace Sys2Proof.Machine

/-! ### The CRC residue -/

/-- A bit of the register that is 0 is shifted out without the polynomial. -/
theorem crcBit_of_lt {r : Word16} (h : r.toNat < 2 ^ 15) : crcBit r = r <<< 1 := by
  have hmsb : r.msb = false := BitVec.msb_eq_false_iff_two_mul_lt.2 (by omega)
  simp [crcBit, hmsb]

/-- As long as only zeros are shifted out, the turns of the loop are one shift. -/
theorem crcBits_of_lt {n : Nat} {r : Word16} (h : r.toNat * 2 ^ n < 2 ^ 16) : crcBits n r = r <<< n := by
  induction n generalizing r with
  | zero => simp [crcBits]
  | succ n ih =>
    have hpow : r.toNat * 2 ^ (n + 1) = r.toNat * 2 * 2 ^ n := by ring
    have hone : r.toNat * 2 ≤ r.toNat * 2 * 2 ^ n := Nat.le_mul_of_pos_right _ (Nat.two_pow_pos n)
    have hdouble : (r <<< 1).toNat = r.toNat * 2 := by
      rw [BitVec.toNat_shiftLeft, Nat.shiftLeft_eq]
      omega
    calc crcBits (n + 1) r
        = crcBits n (r <<< 1) := by rw [crcBits, crcBit_of_lt (by omega)]
      _ = r <<< 1 <<< n := ih (by rw [hdouble]; omega)
      _ = r <<< (n + 1) := by rw [← BitVec.shiftLeft_add, Nat.add_comm]

theorem join_zero_right (h : Byte) : join h 0#8 = h.setWidth 16 <<< 8 := by
  simp [(lengthAssembly h 0#8).1]

theorem join_zero_left (l : Byte) : join 0#8 l = l.setWidth 16 := by
  simp [(lengthAssembly 0#8 l).1]

/-- A byte XORed in at the register's high byte meets that byte only. -/
theorem join_xor_high (h l b : Byte) : join h l ^^^ b.setWidth 16 <<< 8 = join (h ^^^ b) l := by
  rw [← join_zero_right, join, join, BitVec.xor_append, BitVec.xor_zero, join]

/-- `CRC_STEP` on the register's own high byte cancels it, and shifts the low byte up into its place. -/
theorem crcStep_join_self (h l : Byte) : crcStep (join h l) h = join l 0#8 := by
  have hlt : (l.setWidth 16).toNat * 2 ^ 8 < 2 ^ 16 := by
    rw [BitVec.toNat_setWidth]
    omega
  calc crcStep (join h l) h
      = crcBits 8 (join (h ^^^ h) l) := by rw [crcStep, crcIn_eq, join_xor_high]
    _ = crcBits 8 (l.setWidth 16) := by rw [BitVec.xor_self, join_zero_left]
    _ = join l 0#8 := by rw [crcBits_of_lt hlt, join_zero_right]

/-- Feeding a register its own two bytes, high byte first, clears it (R96). -/
theorem crcFold_own_bytes (r : Word16) : crcFold r [hiByte r, loByte r] = 0#16 := by
  have hhi : crcStep r (hiByte r) = join (loByte r) 0#8 := by
    simpa using crcStep_join_self (hiByte r) (loByte r)
  rw [crcFold_cons, crcFold_cons, crcFold_nil, hhi, crcStep_join_self]
  rfl

/-- Settles O32: the CRC's own bytes clear the register, and a frame after its preamble is its CRC input and that CRC. -/
theorem crcResidueIsZero : Obligations.CrcResidueIsZero := by
  have hresidue (s : List Byte) : crc16 (s ++ [hiByte (crc16 s), loByte (crc16 s)]) = 0#16 := by
    rw [crc16_eq_crcFold (s ++ _), crcFold_append, ← crc16_eq_crcFold, crcFold_own_bytes]
  exact ⟨hresidue, fun k c p => hresidue (frameBody k c p)⟩

/-! ### Payload bytes -/

section payload
variable {s t u : State} {b : Byte}

theorem State.sameBlock.trans (h : s.sameBlock t) (h' : t.sameBlock u) : s.sameBlock u := by
  unfold State.sameBlock at h'
  rw [← h] at h'
  exact h'

/-- A run of received bytes begins with the first byte's own effect. -/
theorem receive_cons_of_next (h : execRxByte b s = .next t) (bs : List Byte) :
    receive (b :: bs) s = (receive bs t).map fun x => (t.result :: x.1, x.2) :=
  runOps_cons_of_next (w := .rx b) h _

/-- A payload byte that is not the last goes to both buffers, whatever it is (R108). -/
theorem rxByte_payMore {fb pb : List Byte} {n : Word16} (hc : s.connected = true) (hs : s.isIn .awaitPayload)
    (hf : s.frameBytes = some fb) (hp : s.payloadBytes = some pb) (hn : s.len = some n)
    (hmore : pb.length + 1 ≠ n.toNat) :
    execRxByte b s = .next (((s.setPayload (pb ++ [b])).setFrame (fb ++ [b])).ret .needMore) := by
  rw [rxByte_awaitPayload hc hs hp hn, if_neg hmore]
  exact (RowStep.payMore hf hp).run

end payload

/-- Settles O46, by induction on the bytes: each one runs `PAY_MORE`, as it leaves at least one byte still due. -/
theorem payloadBytesAreData : Obligations.PayloadBytesAreData := by
  intro s bs fb pb n hc hs hf hp hn hlt
  induction bs generalizing s fb pb with
  | nil =>
    refine ⟨_, rfl, ?_⟩
    rw [List.append_nil, List.append_nil, ← hf, ← hp]
    rfl
  | cons b bs ih =>
    rw [List.length_cons] at hlt
    have hlt' : (pb ++ [b]).length + bs.length < n.toNat := by rw [List.length_append, List.length_singleton]; omega
    have hrx := rxByte_payMore (b := b) hc hs hf hp hn (by omega)
    obtain ⟨t, hrun, hsame⟩ := ih (((s.setPayload (pb ++ [b])).setFrame (fb ++ [b])).ret .needMore) (fb ++ [b])
      (pb ++ [b]) hc hs rfl rfl hn hlt'
    refine ⟨t, by rw [receive_cons_of_next hrx, hrun]; rfl, hsame.trans ?_⟩
    simp only [List.append_assoc]
    rfl

end Sys2Proof.Machine

end

section
/-!
PROOFS. The CRC family (41_crc.md): `CRC_STEP` in numbers and over GF(2), the CRC of a sequence, and the running register of R95.
-/

namespace Sys2Proof.Machine

/-! ### One turn of the loop, and eight -/

theorem crcBits_eq_iterate (n : Nat) (r : Word16) : crcBits n r = crcBit^[n] r := by
  induction n generalizing r with
  | zero => rfl
  | succ n ih => exact ih (crcBit r)

/-- One turn of the loop of R90, on the number the register holds. -/
def crcBitNat (x : Nat) : Nat :=
  if 2 ^ 15 ≤ x then (2 * x) % 2 ^ 16 ^^^ Config.CRC_POLY.toNat else (2 * x) % 2 ^ 16

theorem toNat_crcBit (r : Word16) : (crcBit r).toNat = crcBitNat r.toNat := by
  have hdouble : (r <<< 1).toNat = (2 * r.toNat) % 2 ^ 16 := by
    rw [BitVec.toNat_shiftLeft, Nat.shiftLeft_eq, Nat.mul_comm, pow_one]
  by_cases hmsb : 2 ^ 15 ≤ r.toNat
  · have hmsb' : r.msb = true := by rw [BitVec.msb_eq_decide]; exact decide_eq_true hmsb
    rw [crcBit, if_pos hmsb', crcBitNat, if_pos hmsb, BitVec.toNat_xor, hdouble]
  · rw [crcBit_of_lt (not_le.1 hmsb), crcBitNat, if_neg hmsb, hdouble]

/-- Settles O29: `toNat` carries each turn to its number, so it carries the eight turns; the byte's weight is the shift by 8. -/
theorem crcStepInNumbers : Obligations.CrcStepInNumbers := by
  intro r b
  have hturns (x : Word16) : (crcBits 8 x).toNat = crcBitNat^[8] x.toNat := by
    rw [crcBits_eq_iterate]
    exact Function.Semiconj.iterate_right toNat_crcBit 8 x
  have hbyte : (b.setWidth 16 <<< 8).toNat = b.toNat * 256 := by
    rw [BitVec.toNat_shiftLeft, BitVec.toNat_setWidth, Nat.shiftLeft_eq]
    omega
  rw [crcStep, crcIn_eq, hturns, BitVec.toNat_xor, hbyte]
  rfl

theorem crcBit_eq_xor (r : Word16) : crcBit r = r <<< 1 ^^^ if r.msb then Config.CRC_POLY else 0#16 := by
  cases hmsb : r.msb <;> simp [crcBit, hmsb]

/-- The bit shifted out of a sum is the sum of the bits shifted out; where both are 1, the polynomial goes in twice and
cancels. -/
theorem crcBit_xor (x y : Word16) : crcBit (x ^^^ y) = crcBit x ^^^ crcBit y := by
  have hpoly : ∀ p q : Bool, (if p ^^ q then Config.CRC_POLY else 0#16) =
      (if p then Config.CRC_POLY else 0#16) ^^^ if q then Config.CRC_POLY else 0#16 := by decide
  rw [crcBit_eq_xor, crcBit_eq_xor x, crcBit_eq_xor y, BitVec.msb_xor, BitVec.shiftLeft_xor_distrib, hpoly]
  ac_rfl

theorem crcBits_xor (n : Nat) (x y : Word16) : crcBits n (x ^^^ y) = crcBits n x ^^^ crcBits n y := by
  induction n generalizing x y with
  | zero => rfl
  | succ n ih => rw [crcBits, crcBit_xor, ih, crcBits, crcBits]

/-- Settles O31: placing the byte and each turn of the loop are linear. -/
theorem crcStepIsLinear : Obligations.CrcStepIsLinear := by
  intro r₁ r₂ b₁ b₂
  have hbyte : (b₁ ^^^ b₂).setWidth 16 <<< 8 = b₁.setWidth 16 <<< 8 ^^^ b₂.setWidth 16 <<< 8 := by
    rw [BitVec.setWidth_xor, BitVec.shiftLeft_xor_distrib]
  rw [crcStep, crcStep, crcStep, crcIn_eq, crcIn_eq, crcIn_eq, hbyte, ← crcBits_xor]
  congr 1
  ac_rfl

/-! ### The CRC of a sequence -/

theorem crc16_concat (bs : List Byte) (b : Byte) : crc16 (bs ++ [b]) = crcStep (crc16 bs) b := by
  rw [crc16_eq_crcFold, crc16_eq_crcFold, crcFold_append, crcFold_cons, crcFold_nil]

/-- Settles O30: CRC16 is a fold from the initial value, with no final XOR. -/
theorem crcOfSequence : Obligations.CrcOfSequence := ⟨rfl, crc16_concat⟩

/-! ### The running register (R95) -/

/-- The register is the CRC of the buffer, except in the two states from which `TYPE` starts both anew. -/
def Tracks (acc : Option Word16) (s : State) : Prop :=
  s.isIn .awaitPreamble ∨ s.isIn .awaitType ∨ acc = s.frameBytes.map crc16

theorem follows_iff {r : Running} {s : State} :
    r.follows s ↔ r.block = { s with frameBytes := none } ∧ Tracks r.acc s := Iff.rfl

/-- An outcome, without the value of the CRC input buffer. -/
def withoutFrame : Outcome → Outcome
  | .next t => .next { t with frameBytes := none }
  | .fault f => .fault f
  | .refused f => .refused f

section running
variable {s t : State} {b : Byte} {row : Row} {acc : Option Word16} {d : DState} {r : Running}

theorem withoutFrame_eq_next {o : Outcome} :
    withoutFrame o = .next t ↔ ∃ u, o = .next u ∧ { u with frameBytes := none } = t := by
  cases o <;> simp [withoutFrame]

theorem withoutFrame_eq_fault {o : Outcome} {f : Fault} : withoutFrame o = .fault f ↔ o = .fault f := by
  cases o <;> simp [withoutFrame]

theorem withoutFrame_eq_refused {o : Outcome} {f : Refusal} : withoutFrame o = .refused f ↔ o = .refused f := by
  cases o <;> simp [withoutFrame]

theorem Tracks.acc_eq (h : Tracks acc s) (hs : s.isIn d) (hd : d ≠ .awaitPreamble ∧ d ≠ .awaitType) :
    acc = s.frameBytes.map crc16 := by
  have hne {e : DState} (hde : d ≠ e) : ¬ s.isIn e := fun he =>
    hde (DState.code_inj.1 (Option.some.inj (hs.symm.trans he)))
  obtain h | h | h := h
  · exact absurd h (hne hd.1)
  · exact absurd h (hne hd.2)
  · exact h

/-- A byte appended to the buffer is one `CRC_STEP` of the register. -/
theorem Tracks.append {fb : List Byte} (h : acc = s.frameBytes.map crc16) (hf : s.frameBytes = some fb)
    (ht : t.frameBytes = some (fb ++ [b])) : Tracks (acc.map fun a => crcStep a b) t := by
  refine .inr (.inr ?_)
  rw [h, hf, ht, Option.map_some, Option.map_some, Option.map_some, crc16_concat]

/-- The register after a row tracks the buffer the row leaves. `END_BAD` advances the buffer alone, into a state that does not
look at it. -/
theorem RowStep.tracks (h : RowStep b s row t) (hb : row.takes b) (hs : s.isIn row.source) (ha : Tracks acc s) :
    Tracks (accAfter row b acc) t := by
  cases h with
  | preMatch => exact .inr (.inl rfl)
  | preSkip => exact .inl hs
  | type => exact .inr (.inr (congrArg some (crc16_concat [] b).symm))
  | code hf => exact .append (ha.acc_eq hs (by decide)) hf rfl
  | lenhi hf => exact .append (ha.acc_eq hs (by decide)) hf rfl
  | lenloZero hf _ => exact .append (ha.acc_eq hs (by decide)) hf rfl
  | lenloNz hf _ => exact .append (ha.acc_eq hs (by decide)) hf rfl
  | payMore hf _ => exact .append (ha.acc_eq hs (by decide)) hf rfl
  | payLast hf _ => exact .append (ha.acc_eq hs (by decide)) hf rfl
  | endOk hf =>
    obtain rfl : b = Config.ENDMARK := hb
    exact .append (ha.acc_eq hs (by decide)) hf rfl
  | endBad => exact .inl rfl
  | crchi => exact .inr (.inr (ha.acc_eq hs (by decide)))
  | crcloOk => exact .inl rfl
  | crcloBad => exact .inl rfl

/-- Beyond the buffer, a row's effect does not depend on what the buffer holds. -/
theorem withoutFrame_runRow_some (row : Row) (b : Byte) (s : State) (fb fb' : List Byte) :
    withoutFrame (runRow row b { s with frameBytes := some fb }) =
      withoutFrame (runRow row b { s with frameBytes := some fb' }) := by
  rcases s with ⟨_, _, kind, code, lenHi, _, _, _, _, _, payloadBytes, _, _⟩
  cases row with
  | lenloZero => cases lenHi <;> rfl
  | lenloNz => cases lenHi <;> rfl
  | payMore => cases payloadBytes <;> rfl
  | payLast => cases payloadBytes <;> rfl
  | crcloOk => cases kind <;> cases code <;> cases payloadBytes <;> rfl
  | _ => rfl

/-- A row runs alike, beyond the buffer, on the empty stand-in of R95's design: there is one exactly where the block's buffer
has a value, and the rows of the two other states do not read it. -/
theorem withoutFrame_runRow_standIn (hs : s.isIn row.source) (ha : Tracks acc s) :
    withoutFrame (runRow row b { s with frameBytes := acc.map fun _ => [] }) = withoutFrame (runRow row b s) := by
  by_cases hd : row.source ≠ .awaitPreamble ∧ row.source ≠ .awaitType
  · rw [ha.acc_eq hs hd]
    cases hf : s.frameBytes with
    | none => rw [Option.map_none, Option.map_none, ← hf]
    | some fb =>
      calc withoutFrame (runRow row b { s with frameBytes := some [] })
          = withoutFrame (runRow row b { s with frameBytes := some fb }) := withoutFrame_runRow_some ..
        _ = withoutFrame (runRow row b s) := by rw [← hf]
  · cases row with
    | preMatch => rfl
    | preSkip => rfl
    | type => rfl
    | _ => exact absurd (by decide) hd

theorem agrees_runRowAcc (hs : s.isIn row.source) (hb : row.takes b) (hr : r.follows s) :
    Running.agrees (runRowAcc row b r) (runRow row b s) := by
  obtain ⟨block, acc⟩ := r
  obtain ⟨rfl, ha⟩ := follows_iff.1 hr
  have hsame := withoutFrame_runRow_standIn (b := b) hs ha
  have htracks (t : State) (ht : runRow row b s = .next t) := (RowStep.of_run ht).tracks hb hs ha
  unfold runRowAcc
  cases hrow : runRow row b s with
  | next t =>
    obtain ⟨u, hu, hblock⟩ := withoutFrame_eq_next.1 (hsame.trans (congrArg withoutFrame hrow))
    rw [hu]
    exact ⟨hblock, htracks t hrow⟩
  | fault f =>
    rw [withoutFrame_eq_fault.1 (hsame.trans (congrArg withoutFrame hrow))]
    rfl
  | refused f =>
    rw [withoutFrame_eq_refused.1 (hsame.trans (congrArg withoutFrame hrow))]
    rfl

/-- The predicate that reads the register has the value of the one that reads the buffer. -/
theorem accPredicate_eq (hs : s.isIn d) (hr : r.follows s) : accPredicate d.code b r = statePredicate d.code b s := by
  obtain ⟨block, acc⟩ := r
  obtain ⟨rfl, ha⟩ := follows_iff.1 hr
  cases d with
  | awaitCrcLo =>
    obtain rfl := ha.acc_eq hs (by decide)
    cases hh : s.crcHi <;> cases hf : s.frameBytes <;> simp [accPredicate, statePredicate_of_code, flagCrcOk, hh, hf]
  | _ => rfl

theorem rxByteAcc_of_not_connected (hc : s.connected = false) (hr : r.follows s) :
    rxByteAcc b r = .refused .notConnected := by
  simp [rxByteAcc, hr.1, hc]

theorem rxByteAcc_of_no_state (hc : s.connected = true) (hs : s.state = none) (hr : r.follows s) :
    rxByteAcc b r = .fault (.noValue .state) := by
  simp [rxByteAcc, hr.1, hc, hs]

theorem rxByteAcc_of_lastCode_lt {c : StateCode} (hc : s.connected = true) (hs : s.state = some c)
    (hlt : DState.lastCode < c) (hr : r.follows s) : rxByteAcc b r = .fault .illegalState := by
  simp [rxByteAcc, hr.1, hc, hs, hlt]

theorem rxByte_of_lastCode_lt {c : StateCode} (hc : s.connected = true) (hs : s.state = some c)
    (hlt : DState.lastCode < c) : execRxByte b s = .fault .illegalState := by
  simp [execRxByte, hc, hs, hlt]

/-- In a decoder state both read the same predicate, select the same row, and run it alike. -/
theorem agrees_rxByteAcc_of_code (hc : s.connected = true) (hs : s.isIn d) (hr : r.follows s) :
    Running.agrees (rxByteAcc b r) (execRxByte b s) := by
  have hc' : r.block.connected = true := by rw [hr.1, ← hc]
  have hs' : r.block.state = some d.code := by rw [hr.1, ← hs]
  rw [rxByte_of_code hc hs, rxByteAcc, if_pos hc', hs', need_some]
  dsimp only
  rw [if_neg (not_lastCode_lt d), accPredicate_eq hs hr]
  cases statePredicate d.code b s with
  | error f => rfl
  | ok p =>
    rw [withVal_ok]
    cases hsel : selectRow (dispatchWord d.code b) p with
    | none => simp only [hsel]; rfl
    | some row =>
      obtain ⟨rfl, hb, -⟩ := selectRow_of_code_eq_some.1 hsel
      simp only [hsel]
      exact agrees_runRowAcc hs hb hr

end running

/-- Settles O49: the two refuse or fault alike where no transition is due, and agree in each decoder state. -/
theorem runningCrcFollowsBuffer : Obligations.RunningCrcFollowsBuffer := by
  intro s r b hr
  change Running.agrees (rxByteAcc b r) (execRxByte b s)
  cases hc : s.connected with
  | false =>
    rw [rxByteAcc_of_not_connected hc hr, rxByte_of_not_connected hc]
    rfl
  | true =>
    cases hs : s.state with
    | none =>
      rw [rxByteAcc_of_no_state hc hs hr, rxByte_of_no_state hc hs]
      rfl
    | some c =>
      obtain ⟨d, rfl⟩ | hlt := stateCode_cases c
      · exact agrees_rxByteAcc_of_code hc hs hr
      · rw [rxByteAcc_of_lastCode_lt hc hs hlt hr, rxByte_of_lastCode_lt hc hs hlt]
        rfl

end Sys2Proof.Machine
end

section
/-!
PROOFS. The decoder family (42_decoder.md): what `RX_BYTE` and each row do with a byte, blocks no later byte can tell apart, and
the reception of whole frames.
-/

namespace Sys2Proof

/-! ### When a row is selected -/

section selected
variable {row : Row} {w : DispatchWord} {p : Bool}

theorem selectRow_iff_of_always (hcond : row.cond = .always) : selectRow w p = some row ↔
    DispatchWord.stateField w = row.source.code ∧ row.takes (DispatchWord.byteField w) := by
  simp [selectRow_eq_some, hcond, Cond.met]

theorem selectRow_iff_of_anyByte (hcond : row.cond = .always) (hb : ∀ b, row.takes b) :
    selectRow w p = some row ↔ DispatchWord.stateField w = row.source.code := by
  simp [selectRow_iff_of_always hcond, hb]

theorem selectRow_iff_of_oneByte {a : Byte} (hcond : row.cond = .always) (hb : ∀ b, row.takes b ↔ b = a) :
    selectRow w p = some row ↔ w = dispatchWord row.source.code a := by
  rw [selectRow_iff_of_always hcond, hb, ← dispatchWord_inj, dispatchWord_fields]

theorem selectRow_iff_of_holds (hcond : row.cond = .holds) (hb : ∀ b, row.takes b) :
    selectRow w p = some row ↔ DispatchWord.stateField w = row.source.code ∧ p = true := by
  simp [selectRow_eq_some, hcond, hb, Cond.met]

theorem selectRow_iff_of_fails (hcond : row.cond = .fails) (hb : ∀ b, row.takes b) :
    selectRow w p = some row ↔ DispatchWord.stateField w = row.source.code ∧ p = false := by
  simp [selectRow_eq_some, hcond, hb, Cond.met]

end selected

/-- The decoder state a row leads to (R101 to R114). -/
def Row.target : Row → DState
  | .preMatch => .awaitType
  | .preSkip => .awaitPreamble
  | .type => .awaitCode
  | .code => .awaitLenHi
  | .lenhi => .awaitLenLo
  | .lenloZero => .awaitEndMark
  | .lenloNz => .awaitPayload
  | .payMore => .awaitPayload
  | .payLast => .awaitEndMark
  | .endOk => .awaitCrcHi
  | .endBad => .awaitPreamble
  | .crchi => .awaitCrcLo
  | .crcloOk => .awaitPreamble
  | .crcloBad => .awaitPreamble

end Sys2Proof

namespace Sys2Proof.Machine

/-! ### The transitions of RX_BYTE

In each obligation the *Encoding* clause is read off the table by the form of the row, and the effect is the row's `RowStep`:
its instruction has it by definition, and `RX_BYTE` because it runs that row in the row's state. -/

section answers
variable {row : Row} {b : Byte} {s t : State} {d : DState}

/-- A selected row's effect is what `RX_BYTE` and the row's instruction answer (R100). -/
theorem RowStep.answers (h : RowStep b s row t) (hrx : execRxByte b s = runRow row b s) :
    exec (.rxByte b) s = .next t ∧ exec (row.toInstr b) s = .next t :=
  ⟨hrx.trans h.run, (runRow_eq_exec row b s).symm.trans h.run⟩

theorem RowStep.result_of_ne_crcloOk (h : RowStep b s row t) (hrow : row ≠ .crcloOk) : t.result = .needMore := by
  cases h with
  | crcloOk => exact absurd rfl hrow
  | _ => rfl

theorem BlockInv.rowOfR28_of_isIn (hinv : BlockInv s) (hc : s.connected = true) (hs : s.isIn d) : s.rowOfR28 d := by
  obtain ⟨-, e, he, hr⟩ := hinv.2 hc
  obtain rfl : e = d := DState.code_inj.1 (Option.some.inj (he.symm.trans hs))
  exact hr

end answers

/-- Settles O8: the preamble selects the one row of `AwaitPreamble` that fixes a byte, every other byte the other row. -/
theorem preambleSearch : Obligations.PreambleSearch := by
  refine ⟨fun _ _ => selectRow_iff_of_oneByte rfl fun _ => Iff.rfl, fun _ _ => selectRow_iff_of_always rfl,
    fun s b hc hs hb => ?_, fun s b hc hs hb => ?_⟩
  · exact RowStep.preMatch.answers ((rxByte_awaitPreamble hc hs).trans (if_pos hb))
  · exact RowStep.preSkip.answers ((rxByte_awaitPreamble hc hs).trans (if_neg hb))

/-- Settles O9: `AwaitType` has one row, with no condition. -/
theorem typeByteStartsFrame : Obligations.TypeByteStartsFrame := by
  refine ⟨fun _ _ => selectRow_iff_of_anyByte rfl fun _ => trivial, fun s b hc hs t ht => ?_⟩
  subst ht
  exact RowStep.type.answers (rxByte_awaitType hc hs)

/-- Settles O10: `AwaitCode` has one row, with no condition. -/
theorem codeByteStored : Obligations.CodeByteStored := by
  refine ⟨fun _ _ => selectRow_iff_of_anyByte rfl fun _ => trivial, fun s b fb hc hs hf t ht => ?_⟩
  subst ht
  exact (RowStep.code hf).answers (rxByte_awaitCode hc hs)

/-- Settles O11: `AwaitLenHi` has one row, with no condition. -/
theorem lenHiByteStored : Obligations.LenHiByteStored := by
  refine ⟨fun _ _ => selectRow_iff_of_anyByte rfl fun _ => trivial, fun s b fb hc hs hf t ht => ?_⟩
  subst ht
  exact (RowStep.lenhi hf).answers (rxByte_awaitLenHi hc hs)

/-- Settles O12: the predicate is the test on both bytes, and the length they make is then 0. -/
theorem zeroLengthSkipsPayload : Obligations.ZeroLengthSkipsPayload := by
  refine ⟨fun _ _ => selectRow_iff_of_holds rfl fun _ => trivial, fun s b h hh => ?_,
    fun s b h fb hc hs hf hh hz t ht => ?_⟩
  · rw [Bool.decide_and]
    exact flagLenZero_of_some hh
  · obtain ⟨rfl, rfl⟩ := hz
    subst ht
    exact (RowStep.lenloZero hf hh).answers ((rxByte_awaitLenLo hc hs hh).trans (if_pos ⟨rfl, rfl⟩))

/-- Settles O13: two bytes that are not both 0 make a length that is not 0. -/
theorem nonzeroLengthAwaitsPayload : Obligations.NonzeroLengthAwaitsPayload := by
  refine ⟨fun _ _ => selectRow_iff_of_fails rfl fun _ => trivial,
    fun s b h fb hc hs hf hh hnz => ⟨join_pos hnz, fun t ht => ?_⟩⟩
  subst ht
  exact (RowStep.lenloNz hf hh).answers ((rxByte_awaitLenLo hc hs hh).trans (if_neg hnz))

/-- Settles O14: `PayLast` fails, as the count is not the length. -/
theorem payloadByteAppended : Obligations.PayloadByteAppended := by
  refine ⟨fun _ _ => selectRow_iff_of_fails rfl fun _ => trivial,
    fun s b fb pb n hc hs hf hp hn hmore t ht => ?_⟩
  subst ht
  exact (RowStep.payMore hf hp).answers ((rxByte_awaitPayload hc hs hp hn).trans (if_neg hmore))

/-- Settles O15: `PayLast` holds, as the count is the length. -/
theorem lastPayloadByteEndsPayload : Obligations.LastPayloadByteEndsPayload := by
  refine ⟨fun _ _ => selectRow_iff_of_holds rfl fun _ => trivial,
    fun s b fb pb n hc hs hf hp hn hlast t ht => ?_⟩
  subst ht
  exact (RowStep.payLast hf hp).answers ((rxByte_awaitPayload hc hs hp hn).trans (if_pos hlast))

/-- Settles O16: the end mark selects the one row of `AwaitEndMark` that fixes a byte. -/
theorem endMarkFound : Obligations.EndMarkFound := by
  refine ⟨fun _ _ => selectRow_iff_of_oneByte rfl fun _ => Iff.rfl, fun s b fb hc hs hf hb t ht => ?_⟩
  subst hb ht
  exact (RowStep.endOk hf).answers ((rxByte_awaitEndMark hc hs).trans (if_pos rfl))

/-- Settles O17: a byte other than the end mark leaves the other row of `AwaitEndMark`. -/
theorem wrongEndMarkAbandonsFrame : Obligations.WrongEndMarkAbandonsFrame := by
  refine ⟨fun _ _ => selectRow_iff_of_always rfl, fun s b fb hc hs hf hb t ht => ?_⟩
  subst ht
  exact (RowStep.endBad hf).answers ((rxByte_awaitEndMark hc hs).trans (if_neg hb))

/-- Settles O18: `AwaitCrcHi` has one row, with no condition. -/
theorem crcHiByteStored : Obligations.CrcHiByteStored := by
  refine ⟨fun _ _ => selectRow_iff_of_anyByte rfl fun _ => trivial, fun s b hc hs t ht => ?_⟩
  subst ht
  exact RowStep.crchi.answers (rxByte_awaitCrcHi hc hs)

/-- Settles O19: the row of R28 for `AwaitCrcLo` gives the length, and every other row ends in `NeedMore`. -/
theorem matchingCrcDeliversFrame : Obligations.MatchingCrcDeliversFrame := by
  refine ⟨fun _ _ => selectRow_iff_of_holds rfl fun _ => trivial,
    fun s b h k c fb pb hc hs hh hf hk hcode hp hcrc => ⟨fun hinv => ?_, fun t ht => ?_⟩, fun row b s t hrow h => ?_⟩
  · obtain ⟨pb', n, hheader, hn, hlen, -⟩ := hinv.rowOfR28_of_isIn hc hs
    obtain rfl : pb = pb' := Option.some.inj (hp.symm.trans hheader.payloadBytes_eq)
    exact ⟨n, hn, hlen⟩
  · subst ht
    exact (RowStep.crcloOk hk hcode hp).answers ((rxByte_awaitCrcLo hc hs hh hf).trans (if_pos hcrc))
  · exact (RowStep.of_run ((runRow_eq_exec row b s).trans h)).result_of_ne_crcloOk hrow

/-- Settles O20: `CrcOk` fails, as the CRC differs. -/
theorem wrongCrcDropsFrame : Obligations.WrongCrcDropsFrame := by
  refine ⟨fun _ _ => selectRow_iff_of_fails rfl fun _ => trivial, fun s b h fb hc hs hh hf hcrc t ht => ?_⟩
  subst ht
  exact RowStep.crcloBad.answers ((rxByte_awaitCrcLo hc hs hh hf).trans (if_neg hcrc))

/-! ### Blocks no later byte can tell apart -/

section alike
variable {row : Row} {b : Byte} {s s' t : State} {d : DState}

theorem RowStep.isIn_target (h : RowStep b s row t) (hs : s.isIn row.source) : t.isIn row.target := by
  cases h with
  | preSkip => exact hs
  | payMore => exact hs
  | _ => rfl

theorem writes_toInstr_eq (row : Row) (b b' : Byte) : writes (row.toInstr b) = writes (row.toInstr b') := by
  cases row <;> rfl

/-- An element that is live after a row was written by it or was live before: no row brings an old value back to life. -/
theorem written_or_live_source (b : Byte) {e : Element} (he : e ∈ DState.live row.target) :
    e ∈ writes (row.toInstr b) ∨ e ∈ DState.live row.source := by
  rw [writes_toInstr_eq row b 0#8]
  revert e
  cases row <;> decide

/-- What a row writes, and returns, is made of the byte and the live elements of its state. -/
theorem RowStep.transfer (h : RowStep b s row t) (hlive : ∀ e ∈ DState.live row.source, e.same s s') :
    ∃ t', RowStep b s' row t' ∧ t'.result = t.result ∧ ∀ e ∈ writes (row.toInstr b), e.same t t' := by
  have hframe {fb : List Byte} (hl : .frameBytes ∈ DState.live row.source) (hf : s.frameBytes = some fb) :
      s'.frameBytes = some fb := (hlive .frameBytes hl).symm.trans hf
  have hpayload {pb : List Byte} (hl : .payloadBytes ∈ DState.live row.source) (hp : s.payloadBytes = some pb) :
      s'.payloadBytes = some pb := (hlive .payloadBytes hl).symm.trans hp
  have hlenHi {h : Byte} (hl : .lenHi ∈ DState.live row.source) (hh : s.lenHi = some h) :
      s'.lenHi = some h := (hlive .lenHi hl).symm.trans hh
  cases h with
  | preMatch => exact ⟨_, .preMatch, rfl, by simp [writes, Row.toInstr, Element.same]⟩
  | preSkip => exact ⟨_, .preSkip, rfl, by simp [writes, Row.toInstr]⟩
  | type => exact ⟨_, .type, rfl, by simp [writes, Row.toInstr, Element.same]⟩
  | code hf => exact ⟨_, .code (hframe (by decide) hf), rfl, by simp [writes, Row.toInstr, Element.same]⟩
  | lenhi hf => exact ⟨_, .lenhi (hframe (by decide) hf), rfl, by simp [writes, Row.toInstr, Element.same]⟩
  | lenloZero hf hh =>
    exact ⟨_, .lenloZero (hframe (by decide) hf) (hlenHi (by decide) hh), rfl, by
      simp [writes, Row.toInstr, Element.same]⟩
  | lenloNz hf hh =>
    exact ⟨_, .lenloNz (hframe (by decide) hf) (hlenHi (by decide) hh), rfl, by
      simp [writes, Row.toInstr, Element.same]⟩
  | payMore hf hp =>
    exact ⟨_, .payMore (hframe (by decide) hf) (hpayload (by decide) hp), rfl, by
      simp [writes, Row.toInstr, Element.same]⟩
  | payLast hf hp =>
    exact ⟨_, .payLast (hframe (by decide) hf) (hpayload (by decide) hp), rfl, by
      simp [writes, Row.toInstr, Element.same]⟩
  | endOk hf => exact ⟨_, .endOk (hframe (by decide) hf), rfl, by simp [writes, Row.toInstr, Element.same]⟩
  | endBad hf => exact ⟨_, .endBad (hframe (by decide) hf), rfl, by simp [writes, Row.toInstr, Element.same]⟩
  | crchi => exact ⟨_, .crchi, rfl, by simp [writes, Row.toInstr, Element.same]⟩
  | crcloOk hk hcode hp =>
    exact ⟨_, .crcloOk ((hlive .kind (by decide)).symm.trans hk) ((hlive .code (by decide)).symm.trans hcode)
      (hpayload (by decide) hp), rfl, by simp [writes, Row.toInstr, Element.same]⟩
  | crcloBad => exact ⟨_, .crcloBad, rfl, by simp [writes, Row.toInstr, Element.same]⟩

theorem Element.same.trans {e : Element} {u : State} (h : e.same s t) (h' : e.same t u) : e.same s u := by
  cases e <;> exact Eq.trans h h'

theorem Element.same.symm {e : Element} (h : e.same s t) : e.same t s := by
  cases e <;> exact Eq.symm h

/-- The predicate of a decoder state reads live elements only. -/
theorem statePredicate_eq_of_live (hlive : ∀ e ∈ DState.live d, e.same s s') :
    statePredicate d.code b s = statePredicate d.code b s' := by
  rw [statePredicate_of_code, statePredicate_of_code]
  cases d with
  | awaitLenLo =>
    have hh : s.lenHi = s'.lenHi := hlive .lenHi (by decide)
    simp only [flagLenZero, hh]
  | awaitPayload =>
    have hp : s.payloadBytes = s'.payloadBytes := hlive .payloadBytes (by decide)
    have hn : s.len = s'.len := hlive .len (by decide)
    simp only [flagPayLast, hp, hn]
  | awaitCrcLo =>
    have hh : s.crcHi = s'.crcHi := hlive .crcHi (by decide)
    have hf : s.frameBytes = s'.frameBytes := hlive .frameBytes (by decide)
    simp only [flagCrcOk, hh, hf]
  | _ => rfl

end alike

/-- Settles O44: alike blocks select the same row, and each element live after it was written alike or was live before. -/
theorem receiveKeepsBlocksAlike : Obligations.ReceiveKeepsBlocksAlike := by
  intro s₁ s₂ t₁ b ⟨hconn, hstate, hlive⟩ h
  obtain ⟨hc, d, p, row, hs, hp, hsel, hrun⟩ := rxByte_eq_next h
  have hs₂ : s₂.isIn d := hstate.symm.trans hs
  replace hlive := hlive d hs
  obtain ⟨rfl, -, -⟩ := selectRow_of_code_eq_some.1 hsel
  have h₁ := RowStep.of_run hrun
  obtain ⟨t₂, h₂, hresult, hwritten⟩ := h₁.transfer hlive
  obtain ⟨-, hkept₁⟩ := h₁.kept
  obtain ⟨-, hkept₂⟩ := h₂.kept
  have hsame (e : Element) (he : e ∈ writes (row.toInstr b) ∨ e.same s₁ s₂) : e.same t₁ t₂ := by
    by_cases hw : e ∈ writes (row.toInstr b)
    · exact hwritten e hw
    · exact (hkept₁ e hw).symm.trans ((he.resolve_left hw).trans (hkept₂ e hw))
  refine ⟨t₂, rxByte_of_rowStep (hconn.symm.trans hc) hs₂ ((statePredicate_eq_of_live hlive).symm.trans hp) hsel h₂,
    hresult, alike_of_isIn (h₁.isIn_target hs) (h₂.isIn_target hs₂) (hsame .connected (.inr hconn)) fun e he => ?_⟩
  exact hsame e ((written_or_live_source b he).imp_right (hlive e))

/-! ### Runs of received bytes -/

section receive
variable {s s' t u : State} {b : Byte} {bs cs : List Byte} {rs : List OpResult}

/-- Settles O37: the invariant's own step lemma, with the two results of R116 named. -/
theorem receiveNeverStops : Obligations.ReceiveNeverStops := by
  intro s b hinv hc
  obtain ⟨t, ht, -, -, hres⟩ := hinv.receives (b := b) hc
  refine ⟨t, ht, ?_⟩
  cases hr : t.result with
  | needMore => exact .inl rfl
  | frameReady k c p => exact .inr ⟨k, c, p, rfl⟩
  | none => simp [hr, OpResult.isRx] at hres
  | bytes w => simp [hr, OpResult.isRx] at hres

/-- Under the invariant no byte sequence stops a connected block. -/
theorem BlockInv.exists_receive (hinv : BlockInv s) (hc : s.connected = true) (bs : List Byte) :
    ∃ x, receive bs s = some x := by
  induction bs generalizing s with
  | nil => exact ⟨_, rfl⟩
  | cons b bs ih =>
    obtain ⟨t, ht, hct, hit, -⟩ := hinv.receives (b := b) hc
    obtain ⟨x, hx⟩ := ih hit hct
    exact ⟨_, by rw [receive_cons_of_next ht, hx]; rfl⟩

/-- Alike blocks return the same results for the same bytes. -/
theorem receive_of_alike (h : s.alike s') (hrun : receive bs s = some (rs, t)) :
    ∃ t', receive bs s' = some (rs, t') := by
  induction bs generalizing s s' rs with
  | nil => cases hrun; exact ⟨_, rfl⟩
  | cons b bs ih =>
    obtain ⟨u, rs', hu, hrest, rfl⟩ := runOps_cons_eq_some (w := .rx b) hrun
    obtain ⟨u', hu', hres, halike⟩ := receiveKeepsBlocksAlike s s' u b h hu
    obtain ⟨t', ht'⟩ := ih halike hrest
    exact ⟨t', by rw [receive_cons_of_next hu', ht', hres]; rfl⟩

/-- Nothing is live between frames (R115). -/
theorem alike_of_awaitPreamble (hc : s.connected = true) (hc' : s'.connected = true) (hs : s.isIn .awaitPreamble)
    (hs' : s'.isIn .awaitPreamble) : s.alike s' :=
  alike_of_isIn hs hs' (hc.trans hc'.symm) (List.forall_mem_nil _)

/-- Settles O43: both blocks are alike the block just reset, which has the invariant and so never stops. -/
theorem noRescanOfConsumedBytes : Obligations.NoRescanOfConsumedBytes := by
  intro s₁ s₂ bs hc₁ hc₂ hs₁ hs₂
  obtain ⟨⟨rs, t⟩, hrun⟩ := blockInv_reset.exists_receive rfl bs
  obtain ⟨t₁, h₁⟩ := receive_of_alike (alike_of_awaitPreamble rfl hc₁ rfl hs₁) hrun
  obtain ⟨t₂, h₂⟩ := receive_of_alike (alike_of_awaitPreamble rfl hc₂ rfl hs₂) hrun
  exact ⟨rs, t₁, t₂, h₁, h₂⟩

theorem receive_append_of_some (h : receive bs s = some (rs, t)) (cs : List Byte) :
    receive (bs ++ cs) s = (receive cs t).map fun x => (rs ++ x.1, x.2) := by
  rw [receive, List.map_append, runOps_append_of_some h]
  rfl

/-- Each of the bytes gives `NeedMore`, and they lead from `s` to `t`. -/
def Absorbs (bs : List Byte) (s t : State) : Prop := receive bs s = some (List.replicate bs.length .needMore, t)

theorem Absorbs.nil (s : State) : Absorbs [] s (s.withOps []) := rfl

theorem Absorbs.cons (h : execRxByte b s = .next t) (hres : t.result = .needMore) (htail : Absorbs bs t u) :
    Absorbs (b :: bs) s u := by
  rw [Absorbs, receive_cons_of_next h, htail, hres]
  rfl

theorem Absorbs.append (h : Absorbs bs s t) (h' : Absorbs cs t u) : Absorbs (bs ++ cs) s u := by
  rw [Absorbs, receive_append_of_some h, h', List.length_append, List.replicate_add]
  rfl

/-- The preamble moves the state alone (R101). -/
theorem rxByte_preamble (hc : s.connected = true) (hs : s.isIn .awaitPreamble) :
    execRxByte Config.PREAMBLE s = .next ((s.goto .awaitType).ret .needMore) :=
  (rxByte_awaitPreamble hc hs).trans (if_pos rfl)

/-- Bytes that are no preamble leave a block between frames as it is (R102). -/
theorem absorbs_of_no_preamble (hc : s.connected = true) (hs : s.isIn .awaitPreamble) (hbs : Config.PREAMBLE ∉ bs) :
    ∃ t, Absorbs bs s t ∧ t.sameBlock s := by
  induction bs generalizing s with
  | nil => exact ⟨_, .nil s, rfl⟩
  | cons b bs ih =>
    obtain ⟨hb, hbs⟩ := not_or.1 (mt List.mem_cons.2 hbs)
    have hskip : execRxByte b s = .next (s.ret .needMore) :=
      (rxByte_awaitPreamble hc hs).trans (if_neg (ne_comm.1 hb))
    obtain ⟨t, hrun, hsame⟩ := ih (s := s.ret .needMore) hc hs hbs
    exact ⟨t, .cons hskip rfl hrun, hsame.trans rfl⟩

/-- Settles O47: the bytes before the preamble are skipped, and the preamble moves the state alone. -/
theorem outputHeldUntilNextType : Obligations.OutputHeldUntilNextType := by
  intro s bs hc hs hbs
  obtain ⟨t, hrun, hsame⟩ := absorbs_of_no_preamble hc hs hbs
  have hct : t.connected = true := (congrArg State.connected hsame).trans hc
  have hst : t.isIn .awaitPreamble := (congrArg State.state hsame).trans hs
  have hlast : Absorbs [Config.PREAMBLE] t _ := .cons (rxByte_preamble hct hst) rfl (.nil _)
  refine ⟨_, by simpa [Absorbs] using hrun.append hlast, ?_⟩
  rw [← hsame]
  rfl

end receive

/-! ### An encoded frame, byte by byte -/

/-- The block has received a header with kind `k`, code `c` and length bytes `h` and `l`, then the payload bytes `pb`, then
`tail`. -/
def State.hasFields (s : State) (k c h l : Byte) (pb tail : List Byte) : Prop :=
  s.connected = true ∧ s.kind = some k ∧ s.code = some c ∧ s.len = some (join h l) ∧ s.payloadBytes = some pb ∧
    s.frameBytes = some ([k, c, h, l] ++ pb ++ tail)

/-- Where the decoder stands when `m` bytes of a payload of length `n` have arrived (R106, R107, R109). -/
def payloadState (n : Word16) (m : Nat) : DState := if m = n.toNat then .awaitEndMark else .awaitPayload

section frame
variable {s t : State} {b k c h l : Byte} {n : Word16} {p pb tail fb : List Byte}

theorem goto_of_isIn {d : DState} (hs : s.isIn d) : s.goto d = s := by
  rw [State.goto, ← hs]

/-- The low length byte (R106, R107). -/
theorem rxByte_lenLo (hc : s.connected = true) (hs : s.isIn .awaitLenLo) (hh : s.lenHi = some h)
    (hf : s.frameBytes = some fb) :
    execRxByte l s = .next ((((s.setLenLo l).setFrame (fb ++ [l])).setLen (join h l)).goto
      (payloadState (join h l) 0) |>.ret .needMore) := by
  rw [rxByte_awaitLenLo hc hs hh]
  split
  · rename_i hz
    obtain ⟨rfl, rfl⟩ := hz
    exact (RowStep.lenloZero hf hh).run
  · rename_i hnz
    rw [payloadState, if_neg (join_pos hnz).ne]
    exact (RowStep.lenloNz hf hh).run

/-- A payload byte (R108, R109). -/
theorem rxByte_payload (hc : s.connected = true) (hs : s.isIn .awaitPayload) (hf : s.frameBytes = some fb)
    (hp : s.payloadBytes = some pb) (hn : s.len = some n) :
    execRxByte b s = .next (((s.setPayload (pb ++ [b])).setFrame (fb ++ [b])).goto
      (payloadState n (pb.length + 1)) |>.ret .needMore) := by
  by_cases hlast : pb.length + 1 = n.toNat
  · rw [rxByte_awaitPayload hc hs hp hn, if_pos hlast, payloadState, if_pos hlast]
    exact (RowStep.payLast hf hp).run
  · rw [rxByte_payMore hc hs hf hp hn hlast, payloadState, if_neg hlast, goto_of_isIn]
    exact hs

/-- The preamble and the kind byte (R101, R103). -/
theorem absorbs_preamble_kind (hc : s.connected = true) (hs : s.isIn .awaitPreamble) (k : Byte) :
    ∃ t, Absorbs [Config.PREAMBLE, k] s t ∧ t.connected = true ∧ t.isIn .awaitCode ∧ t.kind = some k ∧
      t.frameBytes = some [k] ∧ t.payloadBytes = some [] := by
  have hkind := (rxByte_awaitType (b := k) (s := (s.goto .awaitType).ret .needMore) hc rfl).trans RowStep.type.run
  exact ⟨_, .cons (rxByte_preamble hc hs) rfl (.cons hkind rfl (.nil _)), hc, rfl, rfl, rfl, rfl⟩

/-- The code and length bytes (R104 to R107). -/
theorem absorbs_code_length (hc : s.connected = true) (hs : s.isIn .awaitCode) (hk : s.kind = some k)
    (hf : s.frameBytes = some [k]) (hp : s.payloadBytes = some []) (c h l : Byte) :
    ∃ t, Absorbs [c, h, l] s t ∧ t.hasFields k c h l [] [] ∧ t.isIn (payloadState (join h l) 0) := by
  have hcode := (rxByte_awaitCode (b := c) hc hs).trans (RowStep.code hf).run
  have hlenHi := (rxByte_awaitLenHi (b := h) (s := ((s.setCode c).setFrame ([k] ++ [c])).goto .awaitLenHi |>.ret .needMore)
    hc rfl).trans (RowStep.lenhi (fb := [k, c]) rfl).run
  have hlenLo := rxByte_lenLo (h := h) (l := l) (fb := [k, c, h])
    (s := (((((s.setCode c).setFrame ([k] ++ [c])).goto .awaitLenHi |>.ret .needMore).setLenHi h).setFrame
      ([k, c] ++ [h])).goto .awaitLenLo |>.ret .needMore) hc rfl rfl rfl
  refine ⟨_, .cons hcode rfl (.cons hlenHi rfl (.cons hlenLo rfl (.nil _))), ?_, rfl⟩
  simp [State.hasFields, State.withOps, hc, hk, hp]

/-- The preamble and the header of a frame. -/
theorem absorbs_header (hc : s.connected = true) (hs : s.isIn .awaitPreamble) (k c h l : Byte) :
    ∃ t, Absorbs [Config.PREAMBLE, k, c, h, l] s t ∧ t.hasFields k c h l [] [] ∧
      t.isIn (payloadState (join h l) 0) := by
  obtain ⟨s₁, hrun₁, hc₁, hs₁, hk, hf, hp⟩ := absorbs_preamble_kind hc hs k
  obtain ⟨t, hrun, ht⟩ := absorbs_code_length hc₁ hs₁ hk hf hp c h l
  exact ⟨t, hrun₁.append hrun, ht⟩

/-- The rest of the payload, by induction on it (R108, R109). -/
theorem absorbs_payload (hs : s.isIn (payloadState (join h l) pb.length)) (hfields : s.hasFields k c h l pb [])
    (hlen : pb.length + p.length = (join h l).toNat) :
    ∃ t, Absorbs p s t ∧ t.hasFields k c h l (pb ++ p) [] ∧ t.isIn .awaitEndMark := by
  induction p generalizing s pb with
  | nil =>
    rw [payloadState, if_pos (by simpa using hlen)] at hs
    exact ⟨_, .nil s, by rwa [List.append_nil], hs⟩
  | cons b p ih =>
    rw [List.length_cons] at hlen
    rw [payloadState, if_neg (by omega)] at hs
    obtain ⟨hc, hk, hcode, hn, hp, hf⟩ := hfields
    obtain ⟨t, hrun, hfields, ht⟩ := ih (pb := pb ++ [b])
      (s := ((s.setPayload (pb ++ [b])).setFrame ([k, c, h, l] ++ pb ++ [] ++ [b])).goto
        (payloadState (join h l) (pb.length + 1)) |>.ret .needMore)
      (by rw [List.length_append]; rfl) ⟨hc, hk, hcode, hn, rfl, by simp⟩ (by simp; omega)
    exact ⟨t, .cons (rxByte_payload hc hs hf hp hn) rfl hrun, by simpa using hfields, ht⟩

/-- The end mark and the high CRC byte (R110, R112). -/
theorem absorbs_endMark_crcHi (hs : s.isIn .awaitEndMark) (hfields : s.hasFields k c h l pb []) (b : Byte) :
    ∃ t, Absorbs [Config.ENDMARK, b] s t ∧ t.hasFields k c h l pb [Config.ENDMARK] ∧ t.isIn .awaitCrcLo ∧
      t.crcHi = some b := by
  obtain ⟨hc, hk, hcode, hn, hp, hf⟩ := hfields
  rw [List.append_nil] at hf
  have hend := (rxByte_awaitEndMark (b := Config.ENDMARK) hc hs).trans ((if_pos rfl).trans
    (RowStep.run (b := Config.ENDMARK) (.endOk hf)))
  have hcrcHi := (rxByte_awaitCrcHi (b := b) (s := (s.setFrame ([k, c, h, l] ++ pb ++ [Config.ENDMARK])).goto .awaitCrcHi
    |>.ret .needMore) hc rfl).trans RowStep.crchi.run
  exact ⟨_, .cons hend rfl (.cons hcrcHi rfl (.nil _)), ⟨hc, hk, hcode, hn, hp, rfl⟩, rfl, rfl⟩

/-- A frame up to its high CRC byte leaves the block with the frame's fields and one byte to come. -/
theorem absorbs_until_crcLo (hc : s.connected = true) (hs : s.isIn .awaitPreamble)
    (hlen : p.length ≤ Config.MAX_PAYLOAD) (k c b : Byte) :
    ∃ t, Absorbs ([Config.PREAMBLE] ++ frameBody k c p ++ [b]) s t ∧ t.connected = true ∧ t.isIn .awaitCrcLo ∧
      t.kind = some k ∧ t.code = some c ∧ t.payloadBytes = some p ∧ t.frameBytes = some (frameBody k c p) ∧
      t.crcHi = some b := by
  obtain ⟨s₁, hrun₁, hfields₁, hs₁⟩ := absorbs_header hc hs k c (hiByte (lenField p)) (loByte (lenField p))
  obtain ⟨s₂, hrun₂, hfields₂, hs₂⟩ := absorbs_payload (p := p) hs₁ hfields₁ (by
    rw [join_hi_lo, lenField_toNat hlen]; exact Nat.zero_add _)
  obtain ⟨s₃, hrun₃, ⟨hc₃, hk, hcode, -, hp, hf⟩, hs₃, hcrc⟩ := absorbs_endMark_crcHi hs₂ hfields₂ b
  exact ⟨s₃, by simpa [frameBody] using (hrun₁.append hrun₂).append hrun₃, hc₃, hs₃, hk, hcode, hp, hf, hcrc⟩

/-- Settles O41: the last byte finds the frame's own fields and a matching CRC. -/
theorem encodedFrameDecodes : Obligations.EncodedFrameDecodes := by
  intro s k c p hc hs hlen
  obtain ⟨t, hrun, hct, hst, hk, hcode, hp, hf, hcrc⟩ :=
    absorbs_until_crcLo hc hs hlen k c (hiByte (crc16 (frameBody k c p)))
  have hlast := (rxByte_awaitCrcLo hct hst hcrc hf).trans
    ((if_pos (join_hi_lo _)).trans (RowStep.crcloOk hk hcode hp).run)
  have hcount : ([Config.PREAMBLE] ++ frameBody k c p ++ [hiByte (crc16 (frameBody k c p))]).length = 7 + p.length := by
    simp only [List.length_append, length_frameBody, List.length_singleton]
    omega
  have hall := receive_append_of_some hrun [loByte (crc16 (frameBody k c p))]
  rw [← List.append_cons, receive_cons_of_next hlast, hcount] at hall
  exact ⟨_, hall, hct, rfl⟩

/-- Settles O42: the last byte finds a CRC that does not match. -/
theorem corruptCrcDropped : Obligations.CorruptCrcDropped := by
  intro s k c h l p hc hs hlen hne
  obtain ⟨t, hrun, hct, hst, -, -, -, hf, hcrc⟩ := absorbs_until_crcLo hc hs hlen k c h
  have hbad : join h l ≠ crc16 (frameBody k c p) := fun he => hne (by simp [← he])
  have hlast := (rxByte_awaitCrcLo hct hst hcrc hf).trans ((if_neg hbad).trans RowStep.crcloBad.run)
  have hcount : ([Config.PREAMBLE] ++ frameBody k c p ++ [h, l]).length = 8 + p.length := by
    simp only [List.length_append, length_frameBody, List.length_cons, List.length_nil]
    omega
  have hall := hrun.append (.cons hlast rfl (.nil _))
  rw [← List.append_cons, Absorbs, hcount] at hall
  exact ⟨_, hall, hct, rfl⟩

end frame
end Sys2Proof.Machine
end

section
/-!
PROOFS. The exceptions family (60_exceptions.md): the step with nothing issued, the three refusals, and the fault on an unused
state code.
-/

namespace Sys2Proof.Machine

/-! ### A step that runs nothing -/

section idle
variable {s : State}

/-- With nothing issued a step only returns no result (log entry 3). -/
theorem step_of_nil (h : s.pending = []) : step s = .next (s.ret .none) := by
  rw [step, fetch_of_nil h]

/-- An overlapping operation is refused before it is looked at (R131, R154; log entry 4). -/
theorem step_of_overlaps {i : Issue} {rest : List Issue} (h : s.pending = i :: rest) (ho : i.overlaps = true) :
    step s = .refused .interleaved := by
  rw [step, fetch_overlap h ho]

end idle

/-- Settles O6: the idle step writes the result and nothing else. -/
theorem idleStepKeepsBlock : Obligations.IdleStepKeepsBlock := fun _ => step_of_nil

/-! ### Refusals -/

section refusals
variable {s : State} (k c : Byte) {p : List Byte}

theorem execTxFrame_of_not_connected (hc : s.connected = false) : execTxFrame k c p s = .refused .notConnected := by
  simp [execTxFrame, hc]

theorem execTxFrame_of_too_long (hc : s.connected = true) (hp : Config.MAX_PAYLOAD < p.length) :
    execTxFrame k c p s = .refused .payloadTooLong := by
  simp [execTxFrame, hc, hp]

end refusals

/-- Settles O26: the two operations that need a connection test it first, `TX_FRAME` then tests the length, and the step refuses an
overlap when it fetches. -/
theorem contractViolationsRefused : Obligations.ContractViolationsRefused :=
  ⟨fun _ _ => rxByte_of_not_connected, fun _ k c _ => execTxFrame_of_not_connected k c,
    fun _ k c _ => execTxFrame_of_too_long k c, fun _ _ _ => step_of_overlaps⟩

/-! ### The illegal state code -/

/-- The unused state codes are those from 9 to 15 (R21, R71). -/
theorem lastCode_lt_iff {c : StateCode} : DState.lastCode < c ↔ 9 ≤ c.toNat := Iff.rfl

/-- Settles O27: a code of at least 9 is above the last assigned one, which `RX_BYTE` tests before it selects a row. -/
theorem unusedStateCodeFaults : Obligations.UnusedStateCodeFaults := fun _ _ _ hc hs hcode =>
  rxByte_of_lastCode_lt hc hs (lastCode_lt_iff.2 hcode)

end Sys2Proof.Machine
end
